-- ==== Sys2Proof/Word.lean ====
section
/-!
DEFINITION. The widths of the block: every data path is 8 bits wide (00_scope.md R9), and the word that
selects an operation is 13 bits wide (30_encoding.md R71).
-/

namespace Sys2Proof

/-- An unsigned 8-bit value (00_scope.md R9, R10). -/
abbrev Byte := BitVec 8

/-- An operation word `OPW = {clr, vld, state[2:0], b[7:0]}` (30_encoding.md R71). -/
abbrev OpWord := BitVec 13

end Sys2Proof
end

