-- ==== Sys2Proof/Config.lean ====
section
/-!
DEFINITION. The parameters of an instance (00_scope.md R8), what one clock edge samples (30_encoding.md
R70), what a guard of the operation table reads (30_encoding.md R72), and the free values: two constants
with no body, which no proof can evaluate.
-/

namespace Sys2Proof

/-- The parameters of 00_scope.md R8 that a configuration fixes. `SYNC0` and `SYNC1` are the constants below. -/
structure Cfg where
  dirRequest  : Byte
  dirResponse : Byte
  lenLimit    : Byte
deriving DecidableEq, Repr

namespace Config

/-- `SYNC0`, the byte `'$'` (00_scope.md R8). -/
def sync0 : Byte := 0x24

/-- `SYNC1`, the byte `'C'` (00_scope.md R8). -/
def sync1 : Byte := 0x43

/-- The well-formedness condition of 00_scope.md R8: the two direction bytes differ. -/
def wf (c : Cfg) : Bool := c.dirRequest != c.dirResponse

/-- `BUF_DEPTH = LEN_LIMIT` (00_scope.md R8). -/
def bufDepth (c : Cfg) : Nat := c.lenLimit.toNat

/-- The configuration `CFG0` of 95_test_vectors.md. `LEN_LIMIT = 111` is the spec's value for this hardware;
the two direction bytes are OPEN in the spec, and 0x3C and 0x3E are PRESUMED (log 3; unsafe: a statement
that needs them would say less than it seems, so every statement holds for every well-formed `Cfg`). -/
def cfg0 : Cfg where
  dirRequest := 0x3C
  dirResponse := 0x3E
  lenLimit := 111

end Config

/-- The input ports that a rising edge samples (30_encoding.md R70). `b` means something only when `vld`. -/
structure StepInput where
  rst : Bool
  clr : Bool
  vld : Bool
  b   : Byte
deriving DecidableEq, Repr, Inhabited

/-- What a guard of the operation table reads beside the word: the parameters and three registers, all from
before the step (30_encoding.md R72). -/
structure GuardCtx where
  cfg : Cfg
  len : Byte
  idx : Byte
  cks : Byte
deriving DecidableEq, Repr

/-- FREE VALUE. What the outside world drives at an edge for which nothing is listed in State: no value is
known of it (log 4). Indexed by the count of edges. DESIGN CHOICE (log 20): one function for every run and every
instance of the block, so two that have the same count sample the same input here. -/
opaque Config.freeInput : Nat → StepInput

/-- FREE VALUE. What the read port shows at an index whose `obuf` entry is unspecified (10_state.md R34: any
value, a draw). Indexed by the count of edges and the port's index (log 6). DESIGN CHOICE (log 20): one function for
every run and every instance of the block, so two that have the same count show the same byte at the same index. -/
opaque Config.staleByte : Nat → Byte → Byte

end Sys2Proof
end

