-- ==== Sys2Proof/Syntax.lean ====
section
/-!
DEFINITION. The operations of the block as syntax: one constructor per row of the operation table
(30_encoding.md R80). Operands are the bits of the operation word that the row's mask leaves free.
-/

namespace Sys2Proof

/-- The eight values of the 3-bit register `state` (10_state.md R31). `unused7` is the reserved code 7
(30_encoding.md R83). -/
inductive StateCode where
  | idle | header | direction | length | command | payload | checksum | unused7
deriving DecidableEq, Repr

/-- The 1-bit direction (10_state.md R31): 0 Request, 1 Response. -/
inductive Dir where
  | request | response
deriving DecidableEq, Repr

/-- The four values of the 2-bit event register (60_exceptions.md R200). `evReserved` is code 11. -/
inductive Event where
  | evNone | evMsg | evCksumErr | evReserved
deriving DecidableEq, Repr

/-- One operation: a row of the table of 30_encoding.md R80, in the table's order. -/
inductive Instr where
  /-- CLR, R181. Word `1 v sss bbbbbbbb`: all other bits are free and ignored. -/
  | clr (vld : Bool) (st : StateCode) (b : Byte)
  /-- ILL, R183. Word `0 v 111 bbbbbbbb`: `vld` and `b` are free and ignored. -/
  | ill (vld : Bool) (b : Byte)
  /-- NOP, R180. Word `0 0 sss bbbbbbbb`: `b` is ignored. -/
  | nop (st : StateCode) (b : Byte)
  /-- IDLE_SYNC0, R100. Word 0x0824. -/
  | idleSync0
  /-- IDLE_SKIP, R101. Word `0 1 000 bbbbbbbb`. -/
  | idleSkip (b : Byte)
  /-- HDR_SYNC1, R103. Word 0x0943. -/
  | hdrSync1
  /-- HDR_REJ, R104. Word `0 1 001 bbbbbbbb`. -/
  | hdrRej (b : Byte)
  /-- DIR_REQ, R120. Word `0 1 010 bbbbbbbb`. -/
  | dirReq (b : Byte)
  /-- DIR_RSP, R121. Word `0 1 010 bbbbbbbb`. -/
  | dirRsp (b : Byte)
  /-- DIR_REJ, R122. Word `0 1 010 bbbbbbbb`. -/
  | dirRej (b : Byte)
  /-- LEN_OK, R124. Word `0 1 011 bbbbbbbb`. -/
  | lenOk (b : Byte)
  /-- LEN_REJ, R125. Word `0 1 011 bbbbbbbb`. -/
  | lenRej (b : Byte)
  /-- CMD_PAY, R140. Word `0 1 100 bbbbbbbb`. -/
  | cmdPay (b : Byte)
  /-- CMD_END, R141. Word `0 1 100 bbbbbbbb`. -/
  | cmdEnd (b : Byte)
  /-- PAY_MORE, R142. Word `0 1 101 bbbbbbbb`. -/
  | payMore (b : Byte)
  /-- PAY_LAST, R143. Word `0 1 101 bbbbbbbb`. -/
  | payLast (b : Byte)
  /-- CKS_OK, R160. Word `0 1 110 bbbbbbbb`. -/
  | cksOk (b : Byte)
  /-- CKS_BAD, R161. Word `0 1 110 bbbbbbbb`. -/
  | cksBad (b : Byte)
deriving DecidableEq, Repr

end Sys2Proof
end

