-- ==== Sys2Proof/WellFormed.lean ====
section
/-!
DEFINITION. Which operations a word can select: an operation is well formed in a guard context when its
operands meet the guard of its row (30_encoding.md R80, column "guard") and no row that comes first in the
table takes them.
-/

namespace Sys2Proof

/-- The guard of each row of 30_encoding.md R80, on the operation's own operands. NOP excludes state code 7
(44_control.md R180), which ILL takes first. -/
def Instr.wf (g : GuardCtx) : Instr → Bool
  | .clr _ _ _  => true
  | .ill _ _    => true
  | .nop st _   => st != .unused7
  | .idleSync0  => true
  | .idleSkip b => b != Config.sync0
  | .hdrSync1   => true
  | .hdrRej b   => b != Config.sync1
  | .dirReq b   => b == g.cfg.dirRequest
  | .dirRsp b   => b == g.cfg.dirResponse
  | .dirRej b   => b != g.cfg.dirRequest && b != g.cfg.dirResponse
  | .lenOk b    => decide (b.toNat ≤ g.cfg.lenLimit.toNat)
  | .lenRej b   => decide (g.cfg.lenLimit.toNat < b.toNat)
  | .cmdPay _   => g.len != 0
  | .cmdEnd _   => g.len == 0
  | .payMore _  => decide (g.idx.toNat + 1 < g.len.toNat)
  | .payLast _  => decide (g.len.toNat ≤ g.idx.toNat + 1)
  | .cksOk b    => b == g.cks
  | .cksBad b   => b != g.cks

end Sys2Proof
end

