-- ==== Sys2Proof/Decode.lean ====
section
/-!
DEFINITION. The decoder of the block: from an operation word (30_encoding.md R71) and what the guards read
(R72) to an operation, total with no fallback (R81); the operation table of R80 written out row by row; the
operation codes; and the encoder.
-/

namespace Sys2Proof

/-! ### Codes -/

/-- The code of a value of `state` (10_state.md R31). -/
def StateCode.code : StateCode → BitVec 3
  | .idle => 0 | .header => 1 | .direction => 2 | .length => 3
  | .command => 4 | .payload => 5 | .checksum => 6 | .unused7 => 7

/-- The value of `state` that a code stands for (10_state.md R31). -/
def StateCode.ofCode (c : BitVec 3) : StateCode :=
  if c = 0 then .idle else if c = 1 then .header else if c = 2 then .direction
  else if c = 3 then .length else if c = 4 then .command else if c = 5 then .payload
  else if c = 6 then .checksum else .unused7

/-- The code of a direction bit (10_state.md R31). -/
def Dir.code : Dir → BitVec 1
  | .request => 0 | .response => 1

/-- The code of an event (60_exceptions.md R200). -/
def Event.code : Event → BitVec 2
  | .evNone => 0 | .evMsg => 1 | .evCksumErr => 2 | .evReserved => 3

/-- The code that the register `op` takes, column "code (op_o)" of 30_encoding.md R80. -/
def Instr.opCode : Instr → BitVec 5
  | .clr _ _ _ => 1
  | .ill _ _   => 2
  | .nop _ _   => 0
  | .idleSync0 => 3
  | .idleSkip _ => 4
  | .hdrSync1  => 5
  | .hdrRej _  => 6
  | .dirReq _  => 7
  | .dirRsp _  => 8
  | .dirRej _  => 9
  | .lenOk _   => 10
  | .lenRej _  => 11
  | .cmdPay _  => 12
  | .cmdEnd _  => 13
  | .payMore _ => 14
  | .payLast _ => 15
  | .cksOk _   => 16
  | .cksBad _  => 17

/-! ### The fields of an operation word (30_encoding.md R71) -/

/-- Bit 12. -/
def OpWord.clr (w : OpWord) : Bool := w.getLsbD 12

/-- Bit 11. -/
def OpWord.vld (w : OpWord) : Bool := w.getLsbD 11

/-- Bits 10:8. -/
def OpWord.st (w : OpWord) : StateCode := StateCode.ofCode (w.extractLsb' 8 3)

/-- Bits 7:0. -/
def OpWord.b (w : OpWord) : Byte := w.extractLsb' 0 8

/-- The word made of its four fields, the most significant first. -/
def OpWord.pack (clr vld : Bool) (st : StateCode) (b : Byte) : OpWord :=
  BitVec.ofBool clr ++ BitVec.ofBool vld ++ st.code ++ b

/-! ### The guards (30_encoding.md R80), `idx + 1` computed without wrap-around -/

/-- `b <= LEN_LIMIT`, unsigned (41_fields.md R124). -/
def GuardCtx.lenFits (g : GuardCtx) (b : Byte) : Bool := decide (b ≤ g.cfg.lenLimit)

/-- `idx + 1 < len` (42_body.md R142). -/
def GuardCtx.moreToCome (g : GuardCtx) : Bool := decide (g.idx.toNat + 1 < g.len.toNat)

/-! ### The decoder -/

/-- The operation that byte `b` performs in state `st` (rows 4 to 18 of 30_encoding.md R80). Code 7 is row 2,
ILL: no byte is ever parsed there. -/
def decodeByte (g : GuardCtx) (b : Byte) : StateCode → Instr
  | .idle      => if b = Config.sync0 then .idleSync0 else .idleSkip b
  | .header    => if b = Config.sync1 then .hdrSync1 else .hdrRej b
  | .direction =>
    if b = g.cfg.dirRequest then .dirReq b
    else if b = g.cfg.dirResponse then .dirRsp b else .dirRej b
  | .length    => if g.lenFits b then .lenOk b else .lenRej b
  | .command   => if g.len = 0 then .cmdEnd b else .cmdPay b
  | .payload   => if g.moreToCome then .payMore b else .payLast b
  | .checksum  => if b = g.cks then .cksOk b else .cksBad b
  | .unused7   => .ill true b

/-- The operation an operation word selects (30_encoding.md R72, R81): CLR first, then ILL, then NOP, then
the byte. Total, with no fallback arm. -/
def decode (g : GuardCtx) (w : OpWord) : Instr :=
  if w.clr then .clr w.vld w.st w.b
  else if w.st = .unused7 then .ill w.vld w.b
  else if w.vld then decodeByte g w.b w.st
  else .nop w.st w.b

/-! ### The encoder -/

/-- The operation word of an operation: the bits that its row fixes, and its operands in the bits that the
row leaves free (30_encoding.md R71, R80). -/
def encode : Instr → OpWord
  | .clr v st b => OpWord.pack true v st b
  | .ill v b    => OpWord.pack false v .unused7 b
  | .nop st b   => OpWord.pack false false st b
  | .idleSync0  => OpWord.pack false true .idle Config.sync0
  | .idleSkip b => OpWord.pack false true .idle b
  | .hdrSync1   => OpWord.pack false true .header Config.sync1
  | .hdrRej b   => OpWord.pack false true .header b
  | .dirReq b   => OpWord.pack false true .direction b
  | .dirRsp b   => OpWord.pack false true .direction b
  | .dirRej b   => OpWord.pack false true .direction b
  | .lenOk b    => OpWord.pack false true .length b
  | .lenRej b   => OpWord.pack false true .length b
  | .cmdPay b   => OpWord.pack false true .command b
  | .cmdEnd b   => OpWord.pack false true .command b
  | .payMore b  => OpWord.pack false true .payload b
  | .payLast b  => OpWord.pack false true .payload b
  | .cksOk b    => OpWord.pack false true .checksum b
  | .cksBad b   => OpWord.pack false true .checksum b

/-! ### The operation table of 30_encoding.md R80, as a list of rows in its order -/

/-- One row: its code, its match and mask over the word, its guard, and the operation it selects. The guard
reads the context and the word's byte. -/
structure OpRow where
  code  : BitVec 5
  mat   : OpWord
  mask  : OpWord
  guard : GuardCtx → Byte → Bool
  sel   : OpWord → Instr

/-- A row is taken when its match and mask fit the word and its guard holds (30_encoding.md R72). -/
def OpRow.takes (r : OpRow) (g : GuardCtx) (w : OpWord) : Bool :=
  w &&& r.mask == r.mat && r.guard g w.b

/-- Rows 1 to 7 of 30_encoding.md R80: control and sync. -/
def opTableControlSync : List OpRow :=
  [ ⟨1, 0x1000, 0x1000, fun _ _ => true, fun w => .clr w.vld w.st w.b⟩,
    ⟨2, 0x0700, 0x1700, fun _ _ => true, fun w => .ill w.vld w.b⟩,
    ⟨0, 0x0000, 0x1800, fun _ _ => true, fun w => .nop w.st w.b⟩,
    ⟨3, 0x0824, 0x1FFF, fun _ _ => true, fun _ => .idleSync0⟩,
    ⟨4, 0x0800, 0x1F00, fun _ b => b != 0x24, fun w => .idleSkip w.b⟩,
    ⟨5, 0x0943, 0x1FFF, fun _ _ => true, fun _ => .hdrSync1⟩,
    ⟨6, 0x0900, 0x1F00, fun _ b => b != 0x43, fun w => .hdrRej w.b⟩ ]

/-- Rows 8 to 12 of 30_encoding.md R80: direction and length. -/
def opTableFields : List OpRow :=
  [ ⟨7, 0x0A00, 0x1F00, fun g b => b == g.cfg.dirRequest, fun w => .dirReq w.b⟩,
    ⟨8, 0x0A00, 0x1F00, fun g b => b == g.cfg.dirResponse, fun w => .dirRsp w.b⟩,
    ⟨9, 0x0A00, 0x1F00, fun g b => b != g.cfg.dirRequest && b != g.cfg.dirResponse, fun w => .dirRej w.b⟩,
    ⟨10, 0x0B00, 0x1F00, fun g b => decide (b.toNat ≤ g.cfg.lenLimit.toNat), fun w => .lenOk w.b⟩,
    ⟨11, 0x0B00, 0x1F00, fun g b => decide (b.toNat > g.cfg.lenLimit.toNat), fun w => .lenRej w.b⟩ ]

/-- Rows 13 to 18 of 30_encoding.md R80: command, payload and checksum. -/
def opTableBody : List OpRow :=
  [ ⟨12, 0x0C00, 0x1F00, fun g _ => g.len != 0, fun w => .cmdPay w.b⟩,
    ⟨13, 0x0C00, 0x1F00, fun g _ => g.len == 0, fun w => .cmdEnd w.b⟩,
    ⟨14, 0x0D00, 0x1F00, fun g _ => decide (g.idx.toNat + 1 < g.len.toNat), fun w => .payMore w.b⟩,
    ⟨15, 0x0D00, 0x1F00, fun g _ => decide (g.idx.toNat + 1 ≥ g.len.toNat), fun w => .payLast w.b⟩,
    ⟨16, 0x0E00, 0x1F00, fun g b => b == g.cks, fun w => .cksOk w.b⟩,
    ⟨17, 0x0E00, 0x1F00, fun g b => b != g.cks, fun w => .cksBad w.b⟩ ]

/-- The whole table of 30_encoding.md R80, in priority order. -/
def opTable : List OpRow := opTableControlSync ++ opTableFields ++ opTableBody

/-! ### What the host asks -/

/-- The guard context right after reset: the registers the guards read are 0 (70_reset_and_hazards.md R231). -/
def GuardCtx.atReset : GuardCtx where
  cfg := Config.cfg0
  len := 0
  idx := 0
  cks := 0

/-- The decoder on a word numbered as spec/opcode_table.json numbers it, with the guards reading the registers
as they are right after reset (log 5). An operation word has 13 bits: a number with a bit above bit 12 is no
operation word and is refused (log 13). -/
def decodeTableWord (_nbits w : Nat) : Option Instr :=
  if w < 2 ^ 13 then some (decode GuardCtx.atReset (BitVec.ofNat 13 w)) else none

end Sys2Proof
end

