-- ==== Sys2Proof/Machine/State.lean ====
section
/-!
DEFINITION. The state of the block, in the register form of 10_state.md section 2 (R30 to R32), why a step can
stop, and the state after reset (70_reset_and_hazards.md R231). The abstract form of 10_state.md section 1 is a
view of it, Machine/Abstract.lean (log 1).
-/

namespace Sys2Proof.Machine

/-- A byte array as a sparse list of index and byte, in canonical form: indices strictly rising, no byte 0x00,
which is what an unlisted index holds, as after reset (70_reset_and_hazards.md R231; log 15). -/
abbrev Memory := List Host.Cell

/-- The whole state: the registers of 10_state.md R31 and R32, the parameters of 00_scope.md R8, and two fields
of the model's own, `inputs` and `draws`. -/
structure State where
  /-- Register `state`, 3 bits (R31). -/
  state  : StateCode
  /-- Register `dir`, 1 bit (R31). -/
  dir    : Dir
  /-- Register `len`, the declared payload length (R31). -/
  len    : Byte
  /-- Register `cmd` (R31). -/
  cmd    : Byte
  /-- Register `cks`, the running checksum (R31). -/
  cks    : Byte
  /-- Register `idx`, the payload bytes collected so far (R31). -/
  idx    : Byte
  /-- The working payload buffer `buf` (R31). -/
  buf    : Memory
  /-- Register `out_vld`, sticky (R32). -/
  outVld : Bool
  /-- Register `out_dir` (R32). -/
  outDir : Dir
  /-- Register `out_len` (R32). -/
  outLen : Byte
  /-- Register `out_cmd` (R32). -/
  outCmd : Byte
  /-- Register `out_cks` (R32). -/
  outCks : Byte
  /-- The output buffer `obuf` (R32): the entries that hold a specified byte (R34; log 7). -/
  obuf   : Memory
  /-- Register `evt`, the event of the last step (R32). -/
  evt    : Event
  /-- Register `op`, the code of the last operation (R32; log 10). -/
  op     : BitVec 5
  /-- The parameters (00_scope.md R8), which no step changes (log 2). -/
  cfg    : Cfg
  /-- The model's own: the inputs of the edges to come, the next one first (log 4). -/
  inputs : List StepInput
  /-- The model's own: how many edges have passed, which indexes the free values (logs 4 and 6). -/
  draws  : Nat
deriving DecidableEq, Repr

/-- Why the machine stops with a fault: never. The block has no traps, and no input makes it hang, stop or
refuse a byte (60_exceptions.md R204). Nothing raises a fault, so the type has no constructor. -/
inductive Fault where
deriving DecidableEq, Repr

/-- Why the model gives a step no meaning. -/
inductive Refusal where
  /-- An operation without a meaning yet, by its mnemonic. Raised by an arm of `exec` only. Safe. -/
  | notModelled (mnemonic : String)
  /-- A configuration whose two direction bytes are equal: 00_scope.md R8 refuses it. Raised by `step`. Safe. -/
  | illFormedConfig
deriving DecidableEq, Repr

/-- The state `INIT` of 70_reset_and_hazards.md R231 for given parameters, with given edges to come. -/
def State.init (cfg : Cfg) (inputs : List StepInput) (draws : Nat) : State where
  state := .idle
  dir := .request
  len := 0
  cmd := 0
  cks := 0
  idx := 0
  buf := []
  outVld := false
  outDir := .request
  outLen := 0
  outCmd := 0
  outCks := 0
  obuf := []
  evt := .evNone
  op := 0
  cfg := cfg
  inputs := inputs
  draws := draws

/-- The machine right after reset: `INIT` (R231). Its parameters are those of `CFG0` (log 3), it lists no edge
to come (log 4), and its count of draws starts at 0 (log 6, DESIGN CHOICE). -/
def State.reset : State := State.init Config.cfg0 [] 0

end Sys2Proof.Machine
end

