-- ==== Sys2Proof/Machine/Flags.lean ====
section
/-!
DEFINITION. The block has no flags register and no condition codes (10_state.md R35). What it computes like a
flag: the running XOR checksum, whose comparison decides the event (43_checksum.md R162).
-/

namespace Sys2Proof.Machine

/-- One update of the accumulator: `cks ^ b` (43_checksum.md R162). -/
def xorAcc (cks b : Byte) : Byte := cks ^^^ b

/-- `CKSUM(n, m, p) = n ^ m ^ p[0] ^ ... ^ p[n-1]` (30_encoding.md R77). -/
def cksum (n m : Byte) (p : List Byte) : Byte := p.foldl xorAcc (xorAcc n m)

end Sys2Proof.Machine
end

