-- ==== Sys2Proof/Machine/Operands.lean ====
section
/-!
DEFINITION. Where a step's operands come from: the input of the edge (30_encoding.md R70), the operation word
(R71), what the guards read (R72), and the index of the next payload byte (42_body.md R142).
-/

namespace Sys2Proof.Machine

/-- What the guards read: `len`, `idx`, `cks` from before the step, and the parameters (30_encoding.md R72). -/
def State.guardCtx (s : State) : GuardCtx where
  cfg := s.cfg
  len := s.len
  idx := s.idx
  cks := s.cks

/-- The operation word of a step: `{clr, vld, state, b}` (30_encoding.md R71). -/
def State.opWord (s : State) (inp : StepInput) : OpWord :=
  OpWord.pack inp.clr inp.vld s.state inp.b

/-- The operation that a step with this input takes (30_encoding.md R72). -/
def State.operation (s : State) (inp : StepInput) : Instr := decode s.guardCtx (s.opWord inp)

/-- The input the next edge samples: the first listed one; a free value where none is listed (log 4). -/
def State.nextInput (s : State) : StepInput :=
  match s.inputs with
  | inp :: _ => inp
  | []       => Config.freeInput s.draws

/-- The edge has passed: its input is used up, and the free values move on (logs 4 and 6). -/
def State.takeInput (s : State) : State := { s with inputs := s.inputs.tail, draws := s.draws + 1 }

/-- `idx + 1` as the 8-bit register `idx` takes it (42_body.md R142; at 255, which no run reaches, it is 0:
log 9). -/
def nextIdx (idx : Byte) : Byte := idx + 1

/-- The state in which the very next step takes the operation word `w`: the register `state` holds the word's
state field, and the next edge drives its `clr`, `vld` and `b` with `rst = 0` (30_encoding.md R71; log 5). -/
def State.placeOpWord (s : State) (w : OpWord) : State :=
  { s with
    state := w.st
    inputs := { rst := false, clr := w.clr, vld := w.vld, b := w.b } :: s.inputs }

end Sys2Proof.Machine
end

