-- ==== Sys2Proof/Machine/Ops.lean ====
section
/-!
DEFINITION. The named operations that the meanings share: the two byte arrays (20_memory.md), the transfer of
control `goto` (00_scope.md R10), recovery, the block's counterpart of taking an exception (60_exceptions.md
R207), the latch of a message (43_checksum.md R160), the epilogue (30_encoding.md R86) and reset
(70_reset_and_hazards.md R230).
-/

namespace Sys2Proof.Machine

/-! ### Byte arrays -/

/-- What an index that is not listed holds: the reset value 0x00 (70_reset_and_hazards.md R231; log 15). -/
def Memory.unlisted : Byte := 0

/-- The byte at an index. -/
def Memory.read : Memory → Nat → Byte
  | [], _ => Memory.unlisted
  | (a, v) :: m, i => if i = a then v else Memory.read m i

/-- One byte written, the canonical form kept. -/
def Memory.write : Memory → Nat → Byte → Memory
  | [], i, x => if x = Memory.unlisted then [] else [(i, x)]
  | (a, v) :: m, i, x =>
    if i < a then (if x = Memory.unlisted then (a, v) :: m else (i, x) :: (a, v) :: m)
    else if i = a then (if x = Memory.unlisted then m else (i, x) :: m)
    else (a, v) :: Memory.write m i x

/-- The entries below an index, the others unlisted. -/
def Memory.below (m : Memory) (n : Nat) : Memory := m.filter fun c => decide (c.1 < n)

/-- The bytes at the indices `0 .. n-1`, in order. -/
def Memory.bytes (m : Memory) (n : Nat) : List Byte := (List.range n).map m.read

/-- Canonical from a lower bound on: indices strictly rising, no entry equal to what an unlisted index holds. -/
def Memory.wfFrom : Nat → Memory → Bool
  | _, [] => true
  | lo, (a, v) :: m => decide (lo ≤ a) && v != Memory.unlisted && Memory.wfFrom (a + 1) m

/-- The canonical form. -/
def Memory.wf (m : Memory) : Bool := Memory.wfFrom 0 m

/-- Every listed index is one of the array's `n` entries (20_memory.md R50). -/
def Memory.within (m : Memory) (n : Nat) : Bool := m.all fun c => decide (c.1 < n)

/-! ### Control -/

/-- `goto S`, the only control transfer (00_scope.md R10). -/
def State.goto (s : State) (st : StateCode) : State := { s with state := st }

/-- Recovery (60_exceptions.md R207): the parse state goes to IDLE in one step and nothing is saved. There is no
return operation (R208). -/
def State.recover (s : State) : State := s.goto .idle

/-- The common epilogue (30_encoding.md R86): the event of the step and the code of its operation, and the step
is done. -/
def State.done (s : State) (e : Event) (i : Instr) : Host.Outcome State Fault Refusal :=
  .next { s with evt := e, op := i.opCode }

/-! ### Parsing -/

/-- The accumulator takes one more byte (43_checksum.md R162). -/
def State.accumulate (s : State) (b : Byte) : State := { s with cks := xorAcc s.cks b }

/-- The command byte is kept and accumulated (42_body.md R140, R141). -/
def State.takeCommand (s : State) (b : Byte) : State := { s.accumulate b with cmd := b }

/-- `buf[i] <- b` (00_scope.md R10). `buf` has `BUF_DEPTH` entries (20_memory.md R50): at an index with no entry,
which no run reaches, nothing is written (log 8). -/
def State.writeBuf (s : State) (i : Nat) (b : Byte) : State :=
  if i < Config.bufDepth s.cfg then { s with buf := s.buf.write i b } else s

/-- A payload byte is stored, accumulated and counted (42_body.md R142, R143). The store uses `idx` from before
the step. -/
def State.appendPayload (s : State) (b : Byte) : State :=
  { (s.writeBuf s.idx.toNat b).accumulate b with idx := nextIdx s.idx }

/-- The message is latched into the output registers, all together (43_checksum.md R160, 10_state.md R33):
`obuf[i] <- buf[i]` for `i` below `len`, and the entries from `len` on become unspecified, so none of them is
listed (10_state.md R34; log 7). An index with no entry takes nothing (log 8). -/
def State.latchOut (s : State) (b : Byte) : State :=
  { s with
    outVld := true
    outDir := s.dir
    outLen := s.len
    outCmd := s.cmd
    outCks := b
    obuf := s.buf.below (min s.len.toNat (Config.bufDepth s.cfg)) }

/-! ### Reset -/

/-- A reset edge (70_reset_and_hazards.md R230): `INIT` whatever the other inputs. The parameters are fixed for
the life of the instance (R234), and the edges to come are not the block's. -/
def State.enterInit (s : State) : State := State.init s.cfg s.inputs s.draws

end Sys2Proof.Machine
end

