-- ==== Sys2Proof/Machine/Body.lean ====
section
/-!
DEFINITION. Command and payload accumulation: the operations of the Command and Payload states (42_body.md).
-/

namespace Sys2Proof.Machine

/-- CMD_PAY (42_body.md R140): the command of a frame with a payload. -/
def execCmdPay (b : Byte) (s : State) : Host.Outcome State Fault Refusal :=
  ((s.takeCommand b).goto .payload).done .evNone (.cmdPay b)

/-- CMD_END (42_body.md R141): the command of a frame with no payload; the Payload state takes zero bytes. -/
def execCmdEnd (b : Byte) (s : State) : Host.Outcome State Fault Refusal :=
  ((s.takeCommand b).goto .checksum).done .evNone (.cmdEnd b)

/-- PAY_MORE (42_body.md R142): a payload byte that is not the last. -/
def execPayMore (b : Byte) (s : State) : Host.Outcome State Fault Refusal :=
  ((s.appendPayload b).goto .payload).done .evNone (.payMore b)

/-- PAY_LAST (42_body.md R143): the last payload byte. -/
def execPayLast (b : Byte) (s : State) : Host.Outcome State Fault Refusal :=
  ((s.appendPayload b).goto .checksum).done .evNone (.payLast b)

end Sys2Proof.Machine
end

