-- ==== Sys2Proof/Machine/Checksum.lean ====
section
/-!
DEFINITION. Checksum validation and message output: the operations of the Checksum state (43_checksum.md).
-/

namespace Sys2Proof.Machine

/-- CKS_OK (43_checksum.md R160): the message is latched and EV_MSG is emitted. -/
def execCksOk (b : Byte) (s : State) : Host.Outcome State Fault Refusal :=
  (s.latchOut b).recover.done .evMsg (.cksOk b)

/-- CKS_BAD (43_checksum.md R161): the partial message is dropped and EV_CKSUM_ERR is emitted; the outputs keep
the last good message. -/
def execCksBad (b : Byte) (s : State) : Host.Outcome State Fault Refusal :=
  s.recover.done .evCksumErr (.cksBad b)

end Sys2Proof.Machine
end

