-- ==== Sys2Proof/Machine/Control.lean ====
section
/-!
DEFINITION. The operations that are not bytes of a frame: clear, recovery from the unused state code, and a step
with no byte (44_control.md).
-/

namespace Sys2Proof.Machine

/-- CLR (44_control.md R181): the parse state is discarded and the outputs are kept; a byte presented in the same
step is dropped. -/
def execClr (vld : Bool) (st : StateCode) (b : Byte) (s : State) : Host.Outcome State Fault Refusal :=
  s.recover.done .evNone (.clr vld st b)

/-- ILL (44_control.md R183): state code 7 recovers to IDLE; any byte presented is dropped. -/
def execIll (vld : Bool) (b : Byte) (s : State) : Host.Outcome State Fault Refusal :=
  s.recover.done .evNone (.ill vld b)

/-- NOP (44_control.md R180): no register changes except `evt` and `op`. -/
def execNop (st : StateCode) (b : Byte) (s : State) : Host.Outcome State Fault Refusal :=
  s.done .evNone (.nop st b)

end Sys2Proof.Machine
end

