-- ==== Sys2Proof/Machine/Fields.lean ====
section
/-!
DEFINITION. Direction and length extraction: the operations of the Direction and Length states (41_fields.md).
-/

namespace Sys2Proof.Machine

/-- DIR_REQ (41_fields.md R120). -/
def execDirReq (b : Byte) (s : State) : Host.Outcome State Fault Refusal :=
  ({ s with dir := .request }.goto .length).done .evNone (.dirReq b)

/-- DIR_RSP (41_fields.md R121). -/
def execDirRsp (b : Byte) (s : State) : Host.Outcome State Fault Refusal :=
  ({ s with dir := .response }.goto .length).done .evNone (.dirRsp b)

/-- DIR_REJ (41_fields.md R122): the byte is consumed and `dir` is not written. -/
def execDirRej (b : Byte) (s : State) : Host.Outcome State Fault Refusal :=
  s.recover.done .evNone (.dirRej b)

/-- LEN_OK (41_fields.md R124): the length is kept, it seeds the checksum, and the payload is empty. `buf` is
not cleared. -/
def execLenOk (b : Byte) (s : State) : Host.Outcome State Fault Refusal :=
  ({ s with len := b, cks := b, idx := 0 }.goto .command).done .evNone (.lenOk b)

/-- LEN_REJ (41_fields.md R125): the byte is consumed; `len`, `cks`, `idx` are not written. -/
def execLenRej (b : Byte) (s : State) : Host.Outcome State Fault Refusal :=
  s.recover.done .evNone (.lenRej b)

end Sys2Proof.Machine
end

