-- ==== Sys2Proof/Machine/Sync.lean ====
section
/-!
DEFINITION. Sync detection: the operations of the Idle and Header states (40_sync.md).
-/

namespace Sys2Proof.Machine

/-- IDLE_SYNC0 (40_sync.md R100): `'$'` while idle. The byte is not stored: it can only be 0x24. -/
def execIdleSync0 (s : State) : Host.Outcome State Fault Refusal :=
  (s.goto .header).done .evNone .idleSync0

/-- IDLE_SKIP (40_sync.md R101): a byte ignored while idle. -/
def execIdleSkip (b : Byte) (s : State) : Host.Outcome State Fault Refusal :=
  (s.goto .idle).done .evNone (.idleSkip b)

/-- HDR_SYNC1 (40_sync.md R103): `'C'` after `'$'`. -/
def execHdrSync1 (s : State) : Host.Outcome State Fault Refusal :=
  (s.goto .direction).done .evNone .hdrSync1

/-- HDR_REJ (40_sync.md R104): the byte is consumed by the reject (R102). -/
def execHdrRej (b : Byte) (s : State) : Host.Outcome State Fault Refusal :=
  s.recover.done .evNone (.hdrRej b)

end Sys2Proof.Machine
end

