-- ==== Sys2Proof/Machine/Dispatch.lean ====
section
/-!
DEFINITION. One arm per operation of the table of 30_encoding.md R80.
-/

namespace Sys2Proof.Machine

def exec (i : Instr) (s : State) : Host.Outcome State Fault Refusal :=
  match i with
  -- 44_control.md
  | .clr vld st b => Sys2Proof.Machine.execClr vld st b s
  | .ill vld b => Sys2Proof.Machine.execIll vld b s
  | .nop st b => Sys2Proof.Machine.execNop st b s
  -- 40_sync.md
  | .idleSync0 => Sys2Proof.Machine.execIdleSync0 s
  | .idleSkip b => Sys2Proof.Machine.execIdleSkip b s
  | .hdrSync1 => Sys2Proof.Machine.execHdrSync1 s
  | .hdrRej b => Sys2Proof.Machine.execHdrRej b s
  -- 41_fields.md
  | .dirReq b => Sys2Proof.Machine.execDirReq b s
  | .dirRsp b => Sys2Proof.Machine.execDirRsp b s
  | .dirRej b => Sys2Proof.Machine.execDirRej b s
  | .lenOk b => Sys2Proof.Machine.execLenOk b s
  | .lenRej b => Sys2Proof.Machine.execLenRej b s
  -- 42_body.md
  | .cmdPay b => Sys2Proof.Machine.execCmdPay b s
  | .cmdEnd b => Sys2Proof.Machine.execCmdEnd b s
  | .payMore b => Sys2Proof.Machine.execPayMore b s
  | .payLast b => Sys2Proof.Machine.execPayLast b s
  -- 43_checksum.md
  | .cksOk b => Sys2Proof.Machine.execCksOk b s
  | .cksBad b => Sys2Proof.Machine.execCksBad b s

end Sys2Proof.Machine
end

