-- ==== Sys2Proof/Machine/Step.lean ====
section
/-!
DEFINITION. One step: one rising edge of `clk` with its inputs sampled (00_scope.md R11). `rst` comes first and
takes no operation (70_reset_and_hazards.md R230, 60_exceptions.md R206); otherwise the edge takes exactly one
operation (30_encoding.md R72). Also how the host places one operation word to be taken next.
-/

namespace Sys2Proof.Machine

/-- One clock edge. A configuration that is not well formed is refused (00_scope.md R8; log 16). -/
def step (s : State) : Host.Outcome State Fault Refusal :=
  if Config.wf s.cfg then
    if s.nextInput.rst then .next s.takeInput.enterInit
    else exec (s.operation s.nextInput) s.takeInput
  else .refused .illFormedConfig

/-- The state in which the next step takes the operation word `w` (log 5): its state field is in the register
`state`, and its `clr`, `vld` and `b` are the next edge's. Bits above bit 12 are no part of the word. -/
def State.withFetchWord (s : State) (_nbits w : Nat) : State := s.placeOpWord (BitVec.ofNat 13 w)

end Sys2Proof.Machine
end

