-- ==== Sys2Proof/Machine/Abstract.lean ====
section
/-!
DEFINITION. The abstract form of the state (10_state.md section 1), how it reads off the registers (R30), and the
whole step function on it (44_control.md R184). It is a second, independent reading of the block: the machine
itself runs on the registers, and a statement says that the two agree.
-/

namespace Sys2Proof.Machine

/-- The parse state (10_state.md R20): each variant carries only the fields valid at its stage. `n` is the
declared length, `m` the command, `c` the running checksum, `p` the payload so far. -/
inductive Parse where
  | idle
  | header
  | direction
  | length (d : Dir)
  | command (d : Dir) (n c : Byte)
  | payload (d : Dir) (n m c : Byte) (p : List Byte)
  | checksum (d : Dir) (n m c : Byte) (p : List Byte)
deriving DecidableEq, Repr

/-- A message (10_state.md R23). -/
structure Msg where
  dir     : Dir
  len     : Byte
  cmd     : Byte
  payload : List Byte
  cks     : Byte
deriving DecidableEq, Repr

/-- The two header bytes of every message: not stored, they read as these constants (10_state.md R23). -/
def Msg.header (_m : Msg) : List Byte := [Config.sync0, Config.sync1]

/-- The whole block state in abstract form (10_state.md R25). -/
structure AbsState where
  parse : Parse
  out   : Option Msg
  evt   : Event
  op    : BitVec 5
deriving DecidableEq, Repr

/-- `INIT` in abstract form (70_reset_and_hazards.md R231). -/
def AbsState.init : AbsState where
  parse := .idle
  out := none
  evt := .evNone
  op := 0

/-- The parse state, read off the registers (10_state.md R30). State code 7 stands for no variant. -/
def State.parse (s : State) : Option Parse :=
  match s.state with
  | .idle      => some .idle
  | .header    => some .header
  | .direction => some .direction
  | .length    => some (.length s.dir)
  | .command   => some (.command s.dir s.len s.cks)
  | .payload   => some (.payload s.dir s.len s.cmd s.cks (s.buf.bytes s.idx.toNat))
  | .checksum  => some (.checksum s.dir s.len s.cmd s.cks (s.buf.bytes s.len.toNat))
  | .unused7   => none

/-- The last message, read off the output registers (10_state.md R30). -/
def State.out (s : State) : Option Msg :=
  match s.outVld with
  | true =>
    some { dir := s.outDir, len := s.outLen, cmd := s.outCmd
           payload := s.obuf.bytes s.outLen.toNat, cks := s.outCks }
  | false => none

/-- The abstract state that the registers stand for (10_state.md R25, R30). -/
def State.abs (s : State) : Option AbsState :=
  s.parse.map fun p => { parse := p, out := s.out, evt := s.evt, op := s.op }

/-- `parseByte` (44_control.md R184), with the operation codes of 30_encoding.md R80. -/
def parseByte (cfg : Cfg) (p : Parse) (o : Option Msg) (b : Byte) : AbsState :=
  match p with
  | .idle => if b = 0x24 then ⟨.header, o, .evNone, 3⟩ else ⟨.idle, o, .evNone, 4⟩
  | .header => if b = 0x43 then ⟨.direction, o, .evNone, 5⟩ else ⟨.idle, o, .evNone, 6⟩
  | .direction =>
    if b = cfg.dirRequest then ⟨.length .request, o, .evNone, 7⟩
    else if b = cfg.dirResponse then ⟨.length .response, o, .evNone, 8⟩
    else ⟨.idle, o, .evNone, 9⟩
  | .length d => if b ≤ cfg.lenLimit then ⟨.command d b b, o, .evNone, 10⟩ else ⟨.idle, o, .evNone, 11⟩
  | .command d n c =>
    if n = 0 then ⟨.checksum d n b (c ^^^ b) [], o, .evNone, 13⟩
    else ⟨.payload d n b (c ^^^ b) [], o, .evNone, 12⟩
  | .payload d n m c q =>
    if (q ++ [b]).length < n.toNat then ⟨.payload d n m (c ^^^ b) (q ++ [b]), o, .evNone, 14⟩
    else ⟨.checksum d n m (c ^^^ b) (q ++ [b]), o, .evNone, 15⟩
  | .checksum d n m c q =>
    if b = c then ⟨.idle, some ⟨d, n, m, q, b⟩, .evMsg, 16⟩ else ⟨.idle, o, .evCksumErr, 17⟩

/-- The byte an edge presents: `none` when `vld = 0` (44_control.md R184). -/
def presentedByte (inp : StepInput) : Option Byte := if inp.vld then some inp.b else none

/-- The whole step function in the abstract state (44_control.md R184). -/
def absStep (cfg : Cfg) (a : AbsState) (rst clr : Bool) (byte : Option Byte) : AbsState :=
  if rst then AbsState.init
  else if clr then { a with parse := .idle, evt := .evNone, op := 1 }
  else match byte with
    | none => { a with evt := .evNone, op := 0 }
    | some b => parseByte cfg a.parse a.out b

end Sys2Proof.Machine
end

