-- ==== Sys2Proof/Machine/Frame.lean ====
section
/-!
DEFINITION. The frame format as a reference function (30_encoding.md R78, not hardware) and the stream notation
(R84, R85): the inputs a block receives, written as lists of step inputs.
-/

namespace Sys2Proof.Machine

/-- `dirByte` (30_encoding.md R78). -/
def dirByte (cfg : Cfg) : Dir → Byte
  | .request => cfg.dirRequest
  | .response => cfg.dirResponse

/-- `FRAME(d, m, p)` (30_encoding.md R78). A frame is meant with `|p| <= LEN_LIMIT`. -/
def frame (cfg : Cfg) (d : Dir) (m : Byte) (p : List Byte) : List Byte :=
  [Config.sync0, Config.sync1, dirByte cfg d, BitVec.ofNat 8 p.length, m] ++ p
    ++ [cksum (BitVec.ofNat 8 p.length) m p]

/-- `XX`: one step that presents a byte (30_encoding.md R84). -/
def byteIn (b : Byte) : StepInput := { rst := false, clr := false, vld := true, b := b }

/-- `-`: one step with no byte, whatever `b` shows (30_encoding.md R84). -/
def idleIn (b : Byte) : StepInput := { rst := false, clr := false, vld := false, b := b }

/-- `CLR:XX`: one step with `clr` and a byte, which is dropped (30_encoding.md R84). -/
def clrIn (b : Byte) : StepInput := { rst := false, clr := true, vld := true, b := b }

/-- A sequence of bytes as a stream, one step each (30_encoding.md R84). -/
def byteStream (bs : List Byte) : List StepInput := bs.map byteIn

/-- `BADFRAME(d, m, p, k)` (30_encoding.md R85): the checksum byte XORed with `k`. -/
def badFrame (cfg : Cfg) (d : Dir) (m : Byte) (p : List Byte) (k : Byte) : List Byte :=
  (frame cfg d m p).dropLast ++ [xorAcc (cksum (BitVec.ofNat 8 p.length) m p) k]

/-- `IDLE(n)` (30_encoding.md R85). -/
def idleStream (n : Nat) : List StepInput := List.replicate n (idleIn 0)

/-- `DRAIN(XX ...)` (30_encoding.md R85, 44_control.md R182). -/
def drain (bs : List Byte) : List StepInput := bs.map clrIn

/-- An edge that takes a byte: `vld = 1` with neither `rst` nor `clr` (30_encoding.md R72, 60_exceptions.md R206). -/
def takesByte (inp : StepInput) : Bool := !inp.rst && !inp.clr && inp.vld

end Sys2Proof.Machine
end

