-- ==== Sys2Proof/Machine/Ports.lean ====
section
/-!
DEFINITION. The output ports (30_encoding.md R70) as functions of the state between two edges (20_memory.md R58,
70_reset_and_hazards.md R238), the read port (44_control.md R185) among them.
-/

namespace Sys2Proof.Machine

/-- The output read port (44_control.md R185): combinational, no side effect. The last arm is the unspecified
entry of 10_state.md R34: a free value (log 6). `rd_idx` is the argument (log 14). -/
def State.rdData (s : State) (rdIdx : Byte) : Byte :=
  if Config.bufDepth s.cfg ≤ rdIdx.toNat then 0
  else if s.outVld = false then 0
  else if rdIdx.toNat < s.outLen.toNat then s.obuf.read rdIdx.toNat
  else Config.staleByte s.draws rdIdx

/-- An index at which the spec says what the read port shows: every one but those from `out_len` up to
`BUF_DEPTH - 1` once a message has been latched (10_state.md R34, 20_memory.md R51). -/
def State.RdSpecified (s : State) (rdIdx : Byte) : Prop :=
  s.outVld = false ∨ rdIdx.toNat < s.outLen.toNat ∨ Config.bufDepth s.cfg ≤ rdIdx.toNat

/-- The output ports but `rd_data`, with their widths (30_encoding.md R70). `state_o` and `op_o` are the optional
trace (60_exceptions.md R214). -/
structure Ports where
  evtO    : BitVec 2
  outVldO : BitVec 1
  outDirO : BitVec 1
  outLenO : Byte
  outCmdO : Byte
  outCksO : Byte
  stateO  : BitVec 3
  opO     : BitVec 5
deriving DecidableEq, Repr

/-- What the output ports show (10_state.md R32, 60_exceptions.md R214). -/
def State.ports (s : State) : Ports where
  evtO := s.evt.code
  outVldO := BitVec.ofBool s.outVld
  outDirO := s.outDir.code
  outLenO := s.outLen
  outCmdO := s.outCmd
  outCksO := s.outCks
  stateO := s.state.code
  opO := s.op

end Sys2Proof.Machine
end

