-- ==== Sys2Proof/Safety.lean ====
section
/-!
DEFINITION. What the statements are written in: the invariant of the states that a run reaches (10_state.md R22,
R23), what an operation keeps (30_encoding.md R86), and the events of a run.
-/

namespace Sys2Proof.Machine

/-- The parse registers agree with the parse state (10_state.md R22; `idx` counts the payload, R31). -/
def State.ParseOk (s : State) : Prop :=
  match s.state with
  | .idle | .header | .direction | .length => True
  | .command => s.len.toNat ≤ s.cfg.lenLimit.toNat ∧ s.cks = s.len ∧ s.idx = 0
  | .payload =>
    1 ≤ s.len.toNat ∧ s.len.toNat ≤ s.cfg.lenLimit.toNat ∧ s.idx.toNat < s.len.toNat
      ∧ s.cks = cksum s.len s.cmd (s.buf.bytes s.idx.toNat)
  | .checksum =>
    s.len.toNat ≤ s.cfg.lenLimit.toNat ∧ s.idx = s.len
      ∧ s.cks = cksum s.len s.cmd (s.buf.bytes s.len.toNat)
  | .unused7 => False

/-- The output registers hold a whole valid message, or their reset values (10_state.md R23, R24, R34). -/
def State.OutOk (s : State) : Prop :=
  (s.outVld = true → s.outLen.toNat ≤ s.cfg.lenLimit.toNat
    ∧ s.outCks = cksum s.outLen s.outCmd (s.obuf.bytes s.outLen.toNat)) ∧
  (s.outVld = false → s.outDir = .request ∧ s.outLen = 0 ∧ s.outCmd = 0 ∧ s.outCks = 0 ∧ s.obuf = [])

/-- Both arrays are in canonical form and list nothing beyond their `BUF_DEPTH` entries (20_memory.md R50). -/
def State.StorageOk (s : State) : Prop :=
  s.buf.wf = true ∧ s.obuf.wf = true ∧ s.buf.within (Config.bufDepth s.cfg) = true
    ∧ s.obuf.within (Config.bufDepth s.cfg) = true

/-- The reserved codes are not held: event 11 and operation codes 18..31 (30_encoding.md R83). -/
def State.CodesOk (s : State) : Prop := s.evt ≠ .evReserved ∧ s.op.toNat < 18

/-- The invariant of every state that a run from reset reaches. -/
structure State.Inv (s : State) : Prop where
  cfg     : Config.wf s.cfg = true
  storage : s.StorageOk
  parse   : s.ParseOk
  out     : s.OutOk
  codes   : s.CodesOk

/-- The parse registers but `state` are kept, `buf` byte by byte. -/
def KeepsParseRegs (s t : State) : Prop :=
  t.dir = s.dir ∧ t.len = s.len ∧ t.cmd = s.cmd ∧ t.cks = s.cks ∧ t.idx = s.idx
    ∧ ∀ i : Nat, t.buf.read i = s.buf.read i

/-- The output registers but `evt` and `op` are kept, `obuf` byte by byte (10_state.md R33). -/
def KeepsOutputs (s t : State) : Prop :=
  t.outVld = s.outVld ∧ t.outDir = s.outDir ∧ t.outLen = s.outLen ∧ t.outCmd = s.outCmd
    ∧ t.outCks = s.outCks ∧ ∀ i : Nat, t.obuf.read i = s.obuf.read i

/-- What is not a register of the block is kept: its parameters, the edges to come, the count of edges. -/
def KeepsRest (s t : State) : Prop :=
  t.cfg = s.cfg ∧ t.inputs = s.inputs ∧ t.draws = s.draws

/-- The registers of 70_reset_and_hazards.md R231 at their reset values, both arrays byte by byte. -/
def AtInit (t : State) : Prop :=
  t.state = .idle ∧ t.dir = .request ∧ t.len = 0 ∧ t.cmd = 0 ∧ t.cks = 0 ∧ t.idx = 0
    ∧ (∀ i : Nat, t.buf.read i = 0)
    ∧ t.outVld = false ∧ t.outDir = .request ∧ t.outLen = 0 ∧ t.outCmd = 0 ∧ t.outCks = 0
    ∧ (∀ i : Nat, t.obuf.read i = 0)
    ∧ t.evt = .evNone ∧ t.op = 0

/-- A run of `k` edges from `s` (70_reset_and_hazards.md R241). -/
def runs (k : Nat) (s : State) : Host.Outcome State Fault Refusal := Host.Core.run Sys2Proof.core k s

/-- Every edge of the first `k` (and at least one) leaves no event to report and the outputs of `s`. -/
def QuietFor (k : Nat) (s : State) : Prop :=
  ∀ j : Nat, 1 ≤ j → j ≤ k → ∃ t, runs j s = .next t ∧ t.evt = .evNone ∧ KeepsOutputs s t

end Sys2Proof.Machine
end

