-- ==== Sys2Proof/Certificates/Slice0/Obligations.lean ====
section
/-!
DEFINITION. The statements for the provers. Each docstring names the rule of spec/ that the statement formalises.
A statement of an operation says which words select it (its row of 30_encoding.md R80), that it completes, what it
writes, and what it leaves alone. No statement rests on the value of a free value or on the direction bytes of
`Config.cfg0`.
-/

open Sys2Proof Sys2Proof.Machine

/-! ### The operations, one statement each -/

/-- 40_sync.md R100. -/
def Obligations.IdleSync0TakesDollarToHeader : Prop :=
  ∀ s : State,
    (∀ inp, s.operation inp = .idleSync0 ↔
      inp.clr = false ∧ inp.vld = true ∧ s.state = .idle ∧ inp.b = 0x24) ∧
    (∀ inp, s.operation inp = .idleSync0 ↔ s.opWord inp &&& 0x1FFF = 0x0824) ∧
    ∃ t, exec .idleSync0 s = .next t ∧ t.state = .header ∧ t.evt = .evNone ∧ t.op = 3 ∧
      KeepsParseRegs s t ∧ KeepsOutputs s t ∧ KeepsRest s t

/-- 40_sync.md R101. -/
def Obligations.IdleSkipIgnoresByte : Prop :=
  ∀ (s : State) (b : Byte),
    (∀ inp, s.operation inp = .idleSkip b ↔
      inp.clr = false ∧ inp.vld = true ∧ s.state = .idle ∧ inp.b = b ∧ b ≠ 0x24) ∧
    (∀ inp, s.operation inp = .idleSkip b ↔ s.opWord inp &&& 0x1F00 = 0x0800 ∧ inp.b = b ∧ b ≠ 0x24) ∧
    ∃ t, exec (.idleSkip b) s = .next t ∧ t.state = .idle ∧ t.evt = .evNone ∧ t.op = 4 ∧
      KeepsParseRegs s t ∧ KeepsOutputs s t ∧ KeepsRest s t

/-- 40_sync.md R103. -/
def Obligations.HdrSync1TakesCToDirection : Prop :=
  ∀ s : State,
    (∀ inp, s.operation inp = .hdrSync1 ↔
      inp.clr = false ∧ inp.vld = true ∧ s.state = .header ∧ inp.b = 0x43) ∧
    (∀ inp, s.operation inp = .hdrSync1 ↔ s.opWord inp &&& 0x1FFF = 0x0943) ∧
    ∃ t, exec .hdrSync1 s = .next t ∧ t.state = .direction ∧ t.evt = .evNone ∧ t.op = 5 ∧
      KeepsParseRegs s t ∧ KeepsOutputs s t ∧ KeepsRest s t

/-- 40_sync.md R104. -/
def Obligations.HdrRejReturnsToIdleSilently : Prop :=
  ∀ (s : State) (b : Byte),
    (∀ inp, s.operation inp = .hdrRej b ↔
      inp.clr = false ∧ inp.vld = true ∧ s.state = .header ∧ inp.b = b ∧ b ≠ 0x43) ∧
    (∀ inp, s.operation inp = .hdrRej b ↔ s.opWord inp &&& 0x1F00 = 0x0900 ∧ inp.b = b ∧ b ≠ 0x43) ∧
    ∃ t, exec (.hdrRej b) s = .next t ∧ t.state = .idle ∧ t.evt = .evNone ∧ t.op = 6 ∧
      KeepsParseRegs s t ∧ KeepsOutputs s t ∧ KeepsRest s t

/-- 41_fields.md R120. -/
def Obligations.DirReqSetsRequest : Prop :=
  ∀ (s : State) (b : Byte),
    (∀ inp, s.operation inp = .dirReq b ↔
      inp.clr = false ∧ inp.vld = true ∧ s.state = .direction ∧ inp.b = b ∧ b = s.cfg.dirRequest) ∧
    (∀ inp, s.operation inp = .dirReq b ↔
      s.opWord inp &&& 0x1F00 = 0x0A00 ∧ inp.b = b ∧ b = s.cfg.dirRequest) ∧
    ∃ t, exec (.dirReq b) s = .next t ∧ t.state = .length ∧ t.dir = .request ∧ t.evt = .evNone ∧ t.op = 7 ∧
      t.len = s.len ∧ t.cmd = s.cmd ∧ t.cks = s.cks ∧ t.idx = s.idx ∧
      (∀ i : Nat, t.buf.read i = s.buf.read i) ∧ KeepsOutputs s t ∧ KeepsRest s t

/-- 41_fields.md R121. The two direction bytes differ in every configuration that is not refused (00_scope.md R8). -/
def Obligations.DirRspSetsResponse : Prop :=
  ∀ (s : State) (b : Byte), Config.wf s.cfg = true →
    (∀ inp, s.operation inp = .dirRsp b ↔
      inp.clr = false ∧ inp.vld = true ∧ s.state = .direction ∧ inp.b = b ∧ b = s.cfg.dirResponse) ∧
    (∀ inp, s.operation inp = .dirRsp b ↔
      s.opWord inp &&& 0x1F00 = 0x0A00 ∧ inp.b = b ∧ b = s.cfg.dirResponse) ∧
    ∃ t, exec (.dirRsp b) s = .next t ∧ t.state = .length ∧ t.dir = .response ∧ t.evt = .evNone ∧ t.op = 8 ∧
      t.len = s.len ∧ t.cmd = s.cmd ∧ t.cks = s.cks ∧ t.idx = s.idx ∧
      (∀ i : Nat, t.buf.read i = s.buf.read i) ∧ KeepsOutputs s t ∧ KeepsRest s t

/-- 41_fields.md R122. -/
def Obligations.DirRejReturnsToIdleSilently : Prop :=
  ∀ (s : State) (b : Byte),
    (∀ inp, s.operation inp = .dirRej b ↔
      inp.clr = false ∧ inp.vld = true ∧ s.state = .direction ∧ inp.b = b ∧
        b ≠ s.cfg.dirRequest ∧ b ≠ s.cfg.dirResponse) ∧
    (∀ inp, s.operation inp = .dirRej b ↔
      s.opWord inp &&& 0x1F00 = 0x0A00 ∧ inp.b = b ∧ b ≠ s.cfg.dirRequest ∧ b ≠ s.cfg.dirResponse) ∧
    ∃ t, exec (.dirRej b) s = .next t ∧ t.state = .idle ∧ t.evt = .evNone ∧ t.op = 9 ∧
      KeepsParseRegs s t ∧ KeepsOutputs s t ∧ KeepsRest s t

/-- 41_fields.md R124. -/
def Obligations.LenOkSeedsLengthChecksumAndIndex : Prop :=
  ∀ (s : State) (b : Byte),
    (∀ inp, s.operation inp = .lenOk b ↔
      inp.clr = false ∧ inp.vld = true ∧ s.state = .length ∧ inp.b = b ∧ b.toNat ≤ s.cfg.lenLimit.toNat) ∧
    (∀ inp, s.operation inp = .lenOk b ↔
      s.opWord inp &&& 0x1F00 = 0x0B00 ∧ inp.b = b ∧ b.toNat ≤ s.cfg.lenLimit.toNat) ∧
    ∃ t, exec (.lenOk b) s = .next t ∧ t.state = .command ∧ t.len = b ∧ t.cks = b ∧ t.idx = 0 ∧
      t.evt = .evNone ∧ t.op = 10 ∧ t.dir = s.dir ∧ t.cmd = s.cmd ∧
      (∀ i : Nat, t.buf.read i = s.buf.read i) ∧ KeepsOutputs s t ∧ KeepsRest s t

/-- 41_fields.md R125. -/
def Obligations.LenRejReturnsToIdleSilently : Prop :=
  ∀ (s : State) (b : Byte),
    (∀ inp, s.operation inp = .lenRej b ↔
      inp.clr = false ∧ inp.vld = true ∧ s.state = .length ∧ inp.b = b ∧ s.cfg.lenLimit.toNat < b.toNat) ∧
    (∀ inp, s.operation inp = .lenRej b ↔
      s.opWord inp &&& 0x1F00 = 0x0B00 ∧ inp.b = b ∧ s.cfg.lenLimit.toNat < b.toNat) ∧
    ∃ t, exec (.lenRej b) s = .next t ∧ t.state = .idle ∧ t.evt = .evNone ∧ t.op = 11 ∧
      KeepsParseRegs s t ∧ KeepsOutputs s t ∧ KeepsRest s t

/-- 42_body.md R140. -/
def Obligations.CmdPayTakesCommandToPayload : Prop :=
  ∀ (s : State) (b : Byte),
    (∀ inp, s.operation inp = .cmdPay b ↔
      inp.clr = false ∧ inp.vld = true ∧ s.state = .command ∧ inp.b = b ∧ s.len ≠ 0) ∧
    (∀ inp, s.operation inp = .cmdPay b ↔ s.opWord inp &&& 0x1F00 = 0x0C00 ∧ inp.b = b ∧ s.len ≠ 0) ∧
    ∃ t, exec (.cmdPay b) s = .next t ∧ t.state = .payload ∧ t.cmd = b ∧ t.cks = s.cks ^^^ b ∧
      t.evt = .evNone ∧ t.op = 12 ∧ t.dir = s.dir ∧ t.len = s.len ∧ t.idx = s.idx ∧
      (∀ i : Nat, t.buf.read i = s.buf.read i) ∧ KeepsOutputs s t ∧ KeepsRest s t

/-- 42_body.md R141: the checksum so far is the length byte 0, so it becomes the command byte. -/
def Obligations.CmdEndTakesCommandToChecksum : Prop :=
  ∀ (s : State) (b : Byte),
    (∀ inp, s.operation inp = .cmdEnd b ↔
      inp.clr = false ∧ inp.vld = true ∧ s.state = .command ∧ inp.b = b ∧ s.len = 0) ∧
    (∀ inp, s.operation inp = .cmdEnd b ↔ s.opWord inp &&& 0x1F00 = 0x0C00 ∧ inp.b = b ∧ s.len = 0) ∧
    ∃ t, exec (.cmdEnd b) s = .next t ∧ t.state = .checksum ∧ t.cmd = b ∧ t.cks = s.cks ^^^ b ∧
      (s.Inv → s.state = .command → s.len = 0 → t.cks = b) ∧
      t.evt = .evNone ∧ t.op = 13 ∧ t.dir = s.dir ∧ t.len = s.len ∧ t.idx = s.idx ∧
      (∀ i : Nat, t.buf.read i = s.buf.read i) ∧ KeepsOutputs s t ∧ KeepsRest s t

/-- 42_body.md R142. The store goes to `buf[idx]`, `idx` from before the step. -/
def Obligations.PayMoreStoresByteAndStays : Prop :=
  ∀ (s : State) (b : Byte),
    (∀ inp, s.operation inp = .payMore b ↔
      inp.clr = false ∧ inp.vld = true ∧ s.state = .payload ∧ inp.b = b ∧ s.idx.toNat + 1 < s.len.toNat) ∧
    (∀ inp, s.operation inp = .payMore b ↔
      s.opWord inp &&& 0x1F00 = 0x0D00 ∧ inp.b = b ∧ s.idx.toNat + 1 < s.len.toNat) ∧
    ∃ t, exec (.payMore b) s = .next t ∧ t.state = .payload ∧ t.cks = s.cks ^^^ b ∧
      (s.idx.toNat + 1 < s.len.toNat → t.idx.toNat = s.idx.toNat + 1) ∧
      (s.buf.wf = true → s.idx.toNat < Config.bufDepth s.cfg → t.buf.read s.idx.toNat = b) ∧
      (∀ i : Nat, i ≠ s.idx.toNat → t.buf.read i = s.buf.read i) ∧
      t.evt = .evNone ∧ t.op = 14 ∧ t.dir = s.dir ∧ t.len = s.len ∧ t.cmd = s.cmd ∧
      KeepsOutputs s t ∧ KeepsRest s t

/-- 42_body.md R143. Reachable states have `idx + 1 = len`. -/
def Obligations.PayLastStoresByteAndGoesToChecksum : Prop :=
  ∀ (s : State) (b : Byte),
    (∀ inp, s.operation inp = .payLast b ↔
      inp.clr = false ∧ inp.vld = true ∧ s.state = .payload ∧ inp.b = b ∧ s.len.toNat ≤ s.idx.toNat + 1) ∧
    (∀ inp, s.operation inp = .payLast b ↔
      s.opWord inp &&& 0x1F00 = 0x0D00 ∧ inp.b = b ∧ s.len.toNat ≤ s.idx.toNat + 1) ∧
    (s.Inv → s.state = .payload → s.len.toNat ≤ s.idx.toNat + 1 → s.idx.toNat + 1 = s.len.toNat) ∧
    ∃ t, exec (.payLast b) s = .next t ∧ t.state = .checksum ∧ t.cks = s.cks ^^^ b ∧
      (s.idx.toNat + 1 = s.len.toNat → t.idx = s.len) ∧
      (s.buf.wf = true → s.idx.toNat < Config.bufDepth s.cfg → t.buf.read s.idx.toNat = b) ∧
      (∀ i : Nat, i ≠ s.idx.toNat → t.buf.read i = s.buf.read i) ∧
      t.evt = .evNone ∧ t.op = 15 ∧ t.dir = s.dir ∧ t.len = s.len ∧ t.cmd = s.cmd ∧
      KeepsOutputs s t ∧ KeepsRest s t

/-- The model's choice for a payload operation whose `idx` names no entry of `buf` (logs 8 and 9): nothing is
stored, everything else happens. No state that a run reaches is of this kind (42_body.md R142). -/
def Obligations.PayloadByteBeyondBufferIsNotStored : Prop :=
  ∀ (s : State) (b : Byte) (i : Instr), i = .payMore b ∨ i = .payLast b →
    Config.bufDepth s.cfg ≤ s.idx.toNat →
    ∃ t, exec i s = .next t ∧ (∀ j : Nat, t.buf.read j = s.buf.read j) ∧ t.cks = s.cks ^^^ b ∧
      t.idx.toNat = (s.idx.toNat + 1) % 256 ∧ t.dir = s.dir ∧ t.len = s.len ∧ t.cmd = s.cmd ∧
      KeepsOutputs s t ∧ KeepsRest s t

/-- 43_checksum.md R160. An entry of `obuf` from `len` on is unspecified, and nothing is said of it. -/
def Obligations.CksOkLatchesMessage : Prop :=
  ∀ (s : State) (b : Byte),
    (∀ inp, s.operation inp = .cksOk b ↔
      inp.clr = false ∧ inp.vld = true ∧ s.state = .checksum ∧ inp.b = b ∧ b = s.cks) ∧
    (∀ inp, s.operation inp = .cksOk b ↔ s.opWord inp &&& 0x1F00 = 0x0E00 ∧ inp.b = b ∧ b = s.cks) ∧
    ∃ t, exec (.cksOk b) s = .next t ∧ t.state = .idle ∧ t.evt = .evMsg ∧ t.op = 16 ∧
      t.outVld = true ∧ t.outDir = s.dir ∧ t.outLen = s.len ∧ t.outCmd = s.cmd ∧ t.outCks = b ∧
      (∀ i : Nat, i < s.len.toNat → i < Config.bufDepth s.cfg → t.obuf.read i = s.buf.read i) ∧
      (s.len.toNat ≤ Config.bufDepth s.cfg →
        t.out = some { dir := s.dir, len := s.len, cmd := s.cmd, payload := s.buf.bytes s.len.toNat, cks := b }) ∧
      KeepsParseRegs s t ∧ KeepsRest s t

/-- 43_checksum.md R161. -/
def Obligations.CksBadReportsAndDrops : Prop :=
  ∀ (s : State) (b : Byte),
    (∀ inp, s.operation inp = .cksBad b ↔
      inp.clr = false ∧ inp.vld = true ∧ s.state = .checksum ∧ inp.b = b ∧ b ≠ s.cks) ∧
    (∀ inp, s.operation inp = .cksBad b ↔ s.opWord inp &&& 0x1F00 = 0x0E00 ∧ inp.b = b ∧ b ≠ s.cks) ∧
    ∃ t, exec (.cksBad b) s = .next t ∧ t.state = .idle ∧ t.evt = .evCksumErr ∧ t.op = 17 ∧
      KeepsParseRegs s t ∧ KeepsOutputs s t ∧ KeepsRest s t

/-- 44_control.md R180. -/
def Obligations.NopKeepsEverything : Prop :=
  ∀ (s : State) (st : StateCode) (b : Byte),
    (∀ inp, s.operation inp = .nop st b ↔
      inp.clr = false ∧ inp.vld = false ∧ s.state = st ∧ inp.b = b ∧ st ≠ .unused7) ∧
    (∀ inp, s.operation inp = .nop st b ↔
      s.opWord inp &&& 0x1800 = 0x0000 ∧ s.state = st ∧ inp.b = b ∧ st ≠ .unused7) ∧
    ∃ t, exec (.nop st b) s = .next t ∧ t.state = s.state ∧ t.evt = .evNone ∧ t.op = 0 ∧
      KeepsParseRegs s t ∧ KeepsOutputs s t ∧ KeepsRest s t

/-- 44_control.md R181. The parse registers keep their values but are not live: the parse state is Idle. -/
def Obligations.ClrDiscardsParseStateKeepsOutputs : Prop :=
  ∀ (s : State) (v : Bool) (st : StateCode) (b : Byte),
    (∀ inp, s.operation inp = .clr v st b ↔ inp.clr = true ∧ inp.vld = v ∧ s.state = st ∧ inp.b = b) ∧
    (∀ inp, s.operation inp = .clr v st b ↔
      s.opWord inp &&& 0x1000 = 0x1000 ∧ inp.vld = v ∧ s.state = st ∧ inp.b = b) ∧
    ∃ t, exec (.clr v st b) s = .next t ∧ t.state = .idle ∧ t.parse = some .idle ∧ t.out = s.out ∧
      t.evt = .evNone ∧ t.op = 1 ∧ KeepsParseRegs s t ∧ KeepsOutputs s t ∧ KeepsRest s t

/-- 44_control.md R183. No state that a run reaches has code 7. -/
def Obligations.IllRecoversFromUnusedCode : Prop :=
  ∀ (s : State) (v : Bool) (b : Byte),
    (∀ inp, s.operation inp = .ill v b ↔
      inp.clr = false ∧ s.state = .unused7 ∧ inp.vld = v ∧ inp.b = b) ∧
    (∀ inp, s.operation inp = .ill v b ↔ s.opWord inp &&& 0x1700 = 0x0700 ∧ inp.vld = v ∧ inp.b = b) ∧
    (s.Inv → s.state ≠ .unused7) ∧
    ∃ t, exec (.ill v b) s = .next t ∧ t.state = .idle ∧ t.evt = .evNone ∧ t.op = 2 ∧
      KeepsParseRegs s t ∧ KeepsOutputs s t ∧ KeepsRest s t

/-! ### The step -/

/-- A step runs the decoded operation (30_encoding.md R71, R72): an edge without `rst` whose word is the word of a
well-formed operation is that operation, on the state in which the edge's input is used up and the free values
have moved on. Where no input is listed, the input is the model's free value (log 4). -/
def Obligations.StepRunsDecodedOperation : Prop :=
  ∀ (s : State) (i : Instr), Config.wf s.cfg = true → s.nextInput.rst = false →
    i.wf s.guardCtx = true → encode i = s.opWord s.nextInput →
    step s = exec i { s with inputs := s.inputs.tail, draws := s.draws + 1 }

/-- 70_reset_and_hazards.md R230: the registers at the values of R231, whatever the other inputs. -/
def Obligations.RstEdgeEntersInit : Prop :=
  ∀ s : State, Config.wf s.cfg = true → s.nextInput.rst = true →
    ∃ t, step s = .next t ∧ AtInit t ∧ t.abs = some AbsState.init ∧ (∀ i : Byte, t.rdData i = 0) ∧
      t.cfg = s.cfg ∧ t.inputs = s.inputs.tail

/-- 00_scope.md section 4: the configuration that breaks `DIR_REQUEST ≠ DIR_RESPONSE` is refused, and no other. -/
def Obligations.StepRefusesExactlyEqualDirectionBytes : Prop :=
  ∀ s : State, step s = .refused .illFormedConfig ↔ s.cfg.dirRequest = s.cfg.dirResponse

/-- 60_exceptions.md section 1, no error is fatal: no input and no register value makes the block hang, stop or
refuse a byte. -/
def Obligations.EveryEdgeCompletes : Prop :=
  ∀ s : State, s.cfg.dirRequest ≠ s.cfg.dirResponse → ∃ t, step s = .next t

/-- 20_memory.md section 3 and 70_reset_and_hazards.md section 2: every edge uses exactly one input, in order, and no
edge changes the parameters. -/
def Obligations.EveryEdgeUsesOneInputAndKeepsParameters : Prop :=
  ∀ s t : State, step s = .next t → t.cfg = s.cfg ∧ t.inputs = s.inputs.tail ∧ t.draws = s.draws + 1

/-- 60_exceptions.md R206. -/
def Obligations.SimultaneousInputsTakePriority : Prop :=
  ∀ s : State, Config.wf s.cfg = true →
    ∃ t, step s = .next t ∧
      (s.nextInput.rst = true → AtInit t) ∧
      (s.nextInput.rst = false → s.nextInput.clr = true → t.op = 1 ∧ t.state = .idle) ∧
      (s.nextInput.rst = false → s.nextInput.clr = false → s.state = .unused7 → t.op = 2 ∧ t.state = .idle) ∧
      (s.nextInput.rst = false → s.nextInput.clr = false → s.state ≠ .unused7 → s.nextInput.vld = true →
        t.op = (decodeByte s.guardCtx s.nextInput.b s.state).opCode ∧ 3 ≤ t.op.toNat ∧ t.op.toNat ≤ 17) ∧
      (s.nextInput.rst = false → s.nextInput.clr = false → s.state ≠ .unused7 → s.nextInput.vld = false →
        t.op = 0 ∧ t.state = s.state) ∧
      ((s.nextInput.rst = true ∨ s.nextInput.clr = true) → t.evt = .evNone) ∧
      t.inputs = s.inputs.tail

/-- 30_encoding.md R72 and the table of R80: the operation taken is that of the first row that fits, and rows that
share a match and mask exclude each other and together cover every value. -/
def Obligations.StepTakesFirstFittingRow : Prop :=
  (∀ s : State, Config.wf s.cfg = true → s.nextInput.rst = false →
    ∃ r t, opTable.find? (fun row => row.takes s.guardCtx (s.opWord s.nextInput)) = some r ∧
      r.sel (s.opWord s.nextInput) = s.operation s.nextInput ∧ step s = .next t ∧ t.op = r.code) ∧
  (∀ (g : GuardCtx) (w : OpWord), Config.wf g.cfg = true →
    ∀ r₁ ∈ opTable, ∀ r₂ ∈ opTable, r₁.mat = r₂.mat → r₁.mask = r₂.mask →
      r₁.takes g w = true → r₂.takes g w = true → r₁.code = r₂.code) ∧
  (∀ (g : GuardCtx) (w : OpWord),
    ∀ r₁ ∈ opTable, ∀ r₂ ∈ opTable, r₁.mat = r₂.mat → r₁.mask = r₂.mask → r₁.code ≠ r₂.code →
      w &&& r₁.mask = r₁.mat → ∃ r ∈ opTable, r.mat = r₁.mat ∧ r.mask = r₁.mask ∧ r.takes g w = true)

/-- 60_exceptions.md section 1: which event an edge leaves, and that two events never come from consecutive edges. -/
def Obligations.EventsComeFromChecksumOperationsOnly : Prop :=
  ∀ s t : State, step s = .next t →
    (t.evt = .evMsg ↔ s.nextInput.rst = false ∧ ∃ b, s.operation s.nextInput = .cksOk b) ∧
    (t.evt = .evCksumErr ↔ s.nextInput.rst = false ∧ ∃ b, s.operation s.nextInput = .cksBad b) ∧
    (t.evt.code = 0 ∨ t.evt.code = 1 ∨ t.evt.code = 2) ∧
    (t.evt ≠ .evNone → ∀ u, step t = .next u → u.evt = .evNone)

/-- 30_encoding.md R83: from any state at all, and state code 7 is handled by ILL. -/
def Obligations.ReservedCodesAreNeverProduced : Prop :=
  ∀ s : State, Config.wf s.cfg = true →
    ∃ t, step s = .next t ∧ t.state ≠ .unused7 ∧ t.evt ≠ .evReserved ∧ t.op.toNat < 18 ∧
      (s.state = .unused7 → s.nextInput.clr = false → s.operation s.nextInput = .ill s.nextInput.vld s.nextInput.b)

/-- 10_state.md R33. -/
def Obligations.OutputsChangeOnlyAtLatchOrReset : Prop :=
  ∀ s t : State, step s = .next t →
    (s.nextInput.rst = false → (∀ b, s.operation s.nextInput ≠ .cksOk b) → KeepsOutputs s t) ∧
    (s.nextInput.rst = false → ∀ b, s.operation s.nextInput = .cksOk b →
      t.outVld = true ∧ t.outDir = s.dir ∧ t.outLen = s.len ∧ t.outCmd = s.cmd ∧ t.outCks = b ∧
      ∀ i : Nat, i < s.len.toNat → i < Config.bufDepth s.cfg → t.obuf.read i = s.buf.read i) ∧
    (s.nextInput.rst = true →
      t.outVld = false ∧ t.outDir = .request ∧ t.outLen = 0 ∧ t.outCmd = 0 ∧ t.outCks = 0 ∧
      ∀ i : Nat, t.obuf.read i = 0)

/-- 60_exceptions.md R207: a reject, a checksum byte, CLR and ILL send the parse state to Idle in one step; only
CKS_OK touches the last good message; the input is used up. -/
def Obligations.RecoveryReturnsToIdleAndConsumesByte : Prop :=
  ∀ s : State, Config.wf s.cfg = true → s.nextInput.rst = false →
    ((∃ v st b, s.operation s.nextInput = .clr v st b) ∨ (∃ v b, s.operation s.nextInput = .ill v b) ∨
      (∃ b, s.operation s.nextInput = .hdrRej b) ∨ (∃ b, s.operation s.nextInput = .dirRej b) ∨
      (∃ b, s.operation s.nextInput = .lenRej b) ∨ (∃ b, s.operation s.nextInput = .cksOk b) ∨
      (∃ b, s.operation s.nextInput = .cksBad b)) →
    ∃ t, step s = .next t ∧ t.parse = some .idle ∧ t.inputs = s.inputs.tail ∧
      ((∀ b, s.operation s.nextInput ≠ .cksOk b) → t.out = s.out)

/-! ### Encoding -/

/-- 30_encoding.md section 1: where the fields of an operation word lie. -/
def Obligations.OperationWordLayout : Prop :=
  ∀ (c v : Bool) (st : StateCode) (b : Byte),
    (OpWord.pack c v st b).toNat = c.toNat * 4096 + v.toNat * 2048 + st.code.toNat * 256 + b.toNat

/-- Words of the table of 30_encoding.md R80, written out bit by bit, decode to the operation they stand for. -/
def Obligations.WordsOfTheTableDecode : Prop :=
  ∀ g : GuardCtx,
    decode g 0b1000000000000 = .clr false .idle 0x00 ∧
    decode g 0b0011100000000 = .ill false 0x00 ∧
    decode g 0b0010100000000 = .nop .payload 0x00 ∧
    decode g 0b0100000100100 = .idleSync0 ∧
    decode g 0b0100001000011 = .idleSkip 0x43 ∧
    decode g 0b0100101000011 = .hdrSync1 ∧
    decode g 0b0100100100100 = .hdrRej 0x24 ∧
    (g.cfg.dirRequest = 0x3C → decode g 0b0101000111100 = .dirReq 0x3C) ∧
    (g.cfg.lenLimit = 111 → decode g 0b0101101101111 = .lenOk 0x6F ∧ decode g 0b0101101110000 = .lenRej 0x70) ∧
    (g.len = 2 → g.idx = 0 → decode g 0b0110000000001 = .cmdPay 0x01 ∧ decode g 0b0110110101010 = .payMore 0xAA) ∧
    (g.cks = 0x12 → decode g 0b0111000010010 = .cksOk 0x12 ∧ decode g 0b0111000010011 = .cksBad 0x13)

/-- Decoding the word of a well-formed operation gives it back, every operand at every value. -/
def Obligations.DecodeOfEncodeIsIdentity : Prop :=
  ∀ (g : GuardCtx) (i : Instr), Config.wf g.cfg = true → i.wf g = true → decode g (encode i) = i

/-- Every word decodes to a well-formed operation whose word it is: no bit is dropped and no word is left over
(30_encoding.md section 3, the table is total and deterministic). -/
def Obligations.EncodeOfDecodeIsIdentity : Prop :=
  ∀ (g : GuardCtx) (w : OpWord), (decode g w).wf g = true ∧ encode (decode g w) = w

/-! ### The read port -/

/-- The four arms of the read port (44_control.md, the read port). The first three are the spec's own. The fourth is
the model's choice (log 6): where the spec says ANY, the port shows the free value `Config.staleByte`, of which
nothing is known. -/
def Obligations.ReadPortArms : Prop :=
  ∀ (s : State) (i : Byte),
    (Config.bufDepth s.cfg ≤ i.toNat → s.rdData i = 0) ∧
    (s.outVld = false → s.rdData i = 0) ∧
    (s.outVld = true → i.toNat < Config.bufDepth s.cfg → i.toNat < s.outLen.toNat →
      s.rdData i = s.obuf.read i.toNat) ∧
    (s.outVld = true → i.toNat < Config.bufDepth s.cfg → s.outLen.toNat ≤ i.toNat →
      s.rdData i = Config.staleByte s.draws i)

/-- After the edge that latches a message, the read port shows its payload bytes in arrival order, and 0x00 at and
above `BUF_DEPTH` (44_control.md section on the read port, 20_memory.md section 1). -/
def Obligations.ReadPortShowsLatchedPayload : Prop :=
  ∀ (s : State) (b : Byte), s.Inv → s.nextInput.rst = false → s.operation s.nextInput = .cksOk b →
    ∃ t, step s = .next t ∧
      (∀ i : Byte, i.toNat < s.len.toNat → t.rdData i = s.buf.read i.toNat) ∧
      (∀ i : Byte, Config.bufDepth s.cfg ≤ i.toNat → t.rdData i = 0)

/-- Between latches and resets, the read port shows the same byte at every index at which the spec says what it
shows (20_memory.md section 2, reads are idempotent). -/
def Obligations.ReadPortIsStableBetweenLatches : Prop :=
  ∀ s t : State, step s = .next t → s.nextInput.rst = false → (∀ b, s.operation s.nextInput ≠ .cksOk b) →
    ∀ i : Byte, s.RdSpecified i → t.rdData i = s.rdData i

/-! ### Invariants -/

/-- The state after reset, and `INIT` for every well-formed configuration, meets the invariant. -/
def Obligations.InvariantHoldsAtReset : Prop :=
  State.reset.Inv ∧ ∀ (cfg : Cfg) (inputs : List StepInput) (draws : Nat),
    Config.wf cfg = true → (State.init cfg inputs draws).Inv

/-- 10_state.md section 1 (invariants of the parse state and of a message, marked as derived there), the storage of
20_memory.md section 1 and the reserved codes: every edge keeps them. -/
def Obligations.InvariantKeptByEveryEdge : Prop :=
  ∀ s t : State, s.Inv → step s = .next t → t.Inv

/-- The two arrays keep their canonical form and their bounds under every edge, from every state whatever its
other registers hold. -/
def Obligations.StorageFormKeptByEveryEdge : Prop :=
  ∀ s t : State, s.StorageOk → step s = .next t → t.StorageOk

/-! ### The abstract state -/

/-- 44_control.md section on the whole step function (marked as derived there): the registers do what the abstract
step says. -/
def Obligations.StepRefinesAbstractStep : Prop :=
  ∀ (s : State) (a : AbsState), s.Inv → s.abs = some a →
    ∃ t, step s = .next t ∧
      t.abs = some (absStep s.cfg a s.nextInput.rst s.nextInput.clr (presentedByte s.nextInput))

/-- 10_state.md section 2: a register that the parse state does not read cannot be observed. Two states with the same
abstract state, driven alike, stay alike at every port. Where no input is listed, driven alike is the model's choice:
the same count of edges samples the same free input (log 20). -/
def Obligations.RegistersNotLiveAreUnobservable : Prop :=
  ∀ s₁ s₂ : State, s₁.Inv → s₂.Inv → s₁.abs = s₂.abs → s₁.cfg = s₂.cfg →
    s₁.inputs = s₂.inputs → s₁.draws = s₂.draws →
    ∃ t₁ t₂, step s₁ = .next t₁ ∧ step s₂ = .next t₂ ∧ t₁.abs = t₂.abs ∧ t₁.ports = t₂.ports ∧
      ∀ i : Byte, t₁.RdSpecified i → t₁.rdData i = t₂.rdData i

/-! ### Streams -/

/-- 43_checksum.md section on the round trip (marked as derived there): from Idle, the bytes of a frame, with any
steps without a byte between them, give no event before the last byte and the message at the last byte. -/
def Obligations.FrameRoundTripWithPauses : Prop :=
  ∀ (s : State) (d : Dir) (m : Byte) (p : List Byte) (pre rest : List StepInput),
    s.Inv → s.state = .idle → p.length ≤ s.cfg.lenLimit.toNat →
    (∀ inp ∈ pre, inp.rst = false ∧ inp.clr = false) →
    pre.filterMap presentedByte = (frame s.cfg d m p).dropLast →
    s.inputs = pre ++ byteIn (cksum (BitVec.ofNat 8 p.length) m p) :: rest →
    QuietFor pre.length s ∧
    ∃ t, runs (pre.length + 1) s = .next t ∧ t.state = .idle ∧ t.evt = .evMsg ∧ t.inputs = rest ∧
      t.out = some { dir := d, len := BitVec.ofNat 8 p.length, cmd := m, payload := p,
                     cks := cksum (BitVec.ofNat 8 p.length) m p } ∧
      ∀ (i : Nat) (hi : i < p.length), t.rdData (BitVec.ofNat 8 i) = p[i]

/-- 43_checksum.md section on the round trip: two frames with nothing between them give two messages, in order. -/
def Obligations.BackToBackFramesGiveTwoMessagesInOrder : Prop :=
  ∀ (s : State) (d₁ d₂ : Dir) (m₁ m₂ : Byte) (p₁ p₂ : List Byte) (rest : List StepInput),
    s.Inv → s.state = .idle → p₁.length ≤ s.cfg.lenLimit.toNat → p₂.length ≤ s.cfg.lenLimit.toNat →
    s.inputs = byteStream (frame s.cfg d₁ m₁ p₁ ++ frame s.cfg d₂ m₂ p₂) ++ rest →
    ∃ t u, QuietFor (5 + p₁.length) s ∧ runs (6 + p₁.length) s = .next t ∧ t.evt = .evMsg ∧
      t.out = some { dir := d₁, len := BitVec.ofNat 8 p₁.length, cmd := m₁, payload := p₁,
                     cks := cksum (BitVec.ofNat 8 p₁.length) m₁ p₁ } ∧
      QuietFor (5 + p₂.length) t ∧ runs (6 + p₂.length) t = .next u ∧ u.evt = .evMsg ∧
      u.out = some { dir := d₂, len := BitVec.ofNat 8 p₂.length, cmd := m₂, payload := p₂,
                     cks := cksum (BitVec.ofNat 8 p₂.length) m₂ p₂ } ∧
      u.state = .idle ∧ u.inputs = rest

/-- 43_checksum.md section on what the checksum detects, (a) and (b) (marked as derived there): one wrong command,
payload or checksum byte of a valid frame gives the checksum error, no message, and nothing before it. -/
def Obligations.OneWrongCoveredByteGivesChecksumError : Prop :=
  ∀ (s : State) (d : Dir) (m : Byte) (p : List Byte) (j : Nat) (x y : Byte) (rest : List StepInput),
    s.Inv → s.state = .idle → p.length ≤ s.cfg.lenLimit.toNat →
    4 ≤ j → (frame s.cfg d m p)[j]? = some y → x ≠ y →
    s.inputs = byteStream ((frame s.cfg d m p).set j x) ++ rest →
    QuietFor (5 + p.length) s ∧
    ∃ t, runs (6 + p.length) s = .next t ∧ t.state = .idle ∧ t.evt = .evCksumErr ∧ KeepsOutputs s t ∧
      t.inputs = rest

/-- 40_sync.md section on resynchronisation (marked as derived there): noise with no byte 0x24, from Idle, does not
lose the frame that follows it. -/
def Obligations.NoiseWithoutDollarKeepsNextFrame : Prop :=
  ∀ (s : State) (noise : List Byte) (d : Dir) (m : Byte) (p : List Byte) (rest : List StepInput),
    s.Inv → s.state = .idle → (0x24 : Byte) ∉ noise → p.length ≤ s.cfg.lenLimit.toNat →
    s.inputs = byteStream (noise ++ frame s.cfg d m p) ++ rest →
    QuietFor (noise.length + 5 + p.length) s ∧
    ∃ t, runs (noise.length + 6 + p.length) s = .next t ∧ t.state = .idle ∧ t.evt = .evMsg ∧
      t.out = some { dir := d, len := BitVec.ofNat 8 p.length, cmd := m, payload := p,
                     cks := cksum (BitVec.ofNat 8 p.length) m p }

/-- 70_reset_and_hazards.md section 3, the minimum spacing between events (marked as derived there): every edge that
leaves an event leaves the block in Idle, its configuration well-formed; and from Idle, fewer than 6 byte steps leave no event, and without `rst`
they leave the outputs alone. -/
def Obligations.EventsAreSixByteStepsApart : Prop :=
  (∀ s t : State, step s = .next t → t.evt = .evMsg ∨ t.evt = .evCksumErr →
    t.state = .idle ∧ Config.wf t.cfg = true) ∧
  ∀ (s : State) (k : Nat), Config.wf s.cfg = true → s.state = .idle → 1 ≤ k → k ≤ s.inputs.length →
    (s.inputs.take k).countP takesByte < 6 →
    ∃ t, runs k s = .next t ∧ t.evt = .evNone ∧
      ((∀ inp ∈ s.inputs.take k, inp.rst = false) → KeepsOutputs s t)

/-- 60_exceptions.md section 5 and 44_control.md section on NOP: any number of steps without a byte changes nothing but
`evt` and `op`, in the middle of a frame too. -/
def Obligations.PausesChangeNothing : Prop :=
  ∀ (s : State) (n : Nat), Config.wf s.cfg = true → s.state ≠ .unused7 → 1 ≤ n → n ≤ s.inputs.length →
    (∀ inp ∈ s.inputs.take n, inp.rst = false ∧ inp.clr = false ∧ inp.vld = false) →
    ∃ t, runs n s = .next t ∧ t.state = s.state ∧ t.evt = .evNone ∧ t.op = 0 ∧
      KeepsParseRegs s t ∧ KeepsOutputs s t ∧ t.cfg = s.cfg ∧ t.inputs = s.inputs.drop n
end

