-- ==== Sys2Proof/Laws/Decode.lean ====
section
/-!
SUPPORT. The laws of the operation word: its fields after packing, packing after its fields, and what the masks
of the operation table (30_encoding.md R80) see of a packed word.
-/

namespace Sys2Proof

@[simp] theorem StateCode.ofCode_code (st : StateCode) : StateCode.ofCode st.code = st := by cases st <;> rfl

@[simp] theorem StateCode.code_ofCode (c : BitVec 3) : (StateCode.ofCode c).code = c := by
  revert c; decide

theorem StateCode.code_inj {st st' : StateCode} : st.code = st'.code ↔ st = st' := by
  constructor
  · intro h
    rw [← StateCode.ofCode_code st, h, StateCode.ofCode_code]
  · rintro rfl; rfl

namespace OpWord

/-- The bits of a packed word, field by field from the least significant. -/
theorem getLsbD_pack (c v : Bool) (st : StateCode) (b : Byte) (i : Nat) :
    (pack c v st b).getLsbD i =
      if i < 8 then b.getLsbD i
      else if i < 11 then st.code.getLsbD (i - 8)
      else if i < 12 then v && decide (i = 11)
      else c && decide (i = 12) := by
  change BitVec.getLsbD (BitVec.ofBool c ++ BitVec.ofBool v ++ st.code ++ b) i = _
  rw [BitVec.getLsbD_append, BitVec.getLsbD_append, BitVec.getLsbD_append]
  by_cases h8 : i < 8
  · simp [h8]
  · by_cases h11 : i < 11
    · simp [h8, h11, show i - 8 < 3 by omega]
    · by_cases h12 : i < 12
      · have : i = 11 := by omega
        subst this; simp
      · by_cases h13 : i = 12
        · subst h13; simp
        · have : ∀ k : Nat, k ≠ 0 → (BitVec.ofBool c).getLsbD k = false := fun k hk =>
            BitVec.getLsbD_of_ge _ _ (by omega)
          simp [h8, h11, h12, h13, show ¬ i - 8 < 3 by omega, show ¬ i - 8 - 3 < 1 by omega,
            this (i - 8 - 3 - 1) (by omega)]

@[simp] theorem clr_pack (c v : Bool) (st : StateCode) (b : Byte) : OpWord.clr (pack c v st b) = c := by
  simp [OpWord.clr, getLsbD_pack, -BitVec.getLsbD_eq_getElem]

@[simp] theorem vld_pack (c v : Bool) (st : StateCode) (b : Byte) : OpWord.vld (pack c v st b) = v := by
  simp [OpWord.vld, getLsbD_pack, -BitVec.getLsbD_eq_getElem]

@[simp] theorem st_pack (c v : Bool) (st : StateCode) (b : Byte) : OpWord.st (pack c v st b) = st := by
  have : BitVec.extractLsb' 8 3 (pack c v st b) = st.code := by
    apply BitVec.eq_of_getLsbD_eq
    intro i hi
    rw [BitVec.getLsbD_extractLsb', getLsbD_pack]
    simp [hi, show 8 + i < 11 by omega]
  rw [OpWord.st, this, StateCode.ofCode_code]

@[simp] theorem b_pack (c v : Bool) (st : StateCode) (b : Byte) : OpWord.b (pack c v st b) = b := by
  apply BitVec.eq_of_getLsbD_eq
  intro i hi
  rw [OpWord.b, BitVec.getLsbD_extractLsb', getLsbD_pack]
  simp [hi]

/-- Packing a word's own fields gives the word: no bit is dropped. -/
@[simp] theorem pack_fields (w : OpWord) : pack w.clr w.vld w.st w.b = w := by
  apply BitVec.eq_of_getLsbD_eq
  intro i hi
  rw [getLsbD_pack, OpWord.b, OpWord.st, OpWord.vld, OpWord.clr, StateCode.code_ofCode,
    BitVec.getLsbD_extractLsb', BitVec.getLsbD_extractLsb']
  by_cases h8 : i < 8
  · simp [h8]
  · by_cases h11 : i < 11
    · simp [h8, h11, show i - 8 < 3 by omega, show 8 + (i - 8) = i by omega]
    · have : i = 11 ∨ i = 12 := by omega
      rcases this with rfl | rfl <;> simp

theorem pack_inj {c c' v v' : Bool} {st st' : StateCode} {b b' : Byte} :
    pack c v st b = pack c' v' st' b' ↔ c = c' ∧ v = v' ∧ st = st' ∧ b = b' := by
  constructor
  · intro h
    refine ⟨?_, ?_, ?_, ?_⟩
    · simpa using congrArg OpWord.clr h
    · simpa using congrArg OpWord.vld h
    · simpa using congrArg OpWord.st h
    · simpa using congrArg OpWord.b h
  · rintro ⟨rfl, rfl, rfl, rfl⟩; rfl

/-- The mask 0x1F00 sees `clr`, `vld` and `state`. -/
theorem pack_and_1F00 (c v : Bool) (st : StateCode) (b : Byte) : pack c v st b &&& 0x1F00 = pack c v st 0 := by
  apply BitVec.eq_of_getLsbD_eq
  intro i hi
  rw [BitVec.getLsbD_and, getLsbD_pack, getLsbD_pack]
  interval_cases i <;> simp

/-- The mask 0x1700 sees `clr` and `state`. -/
theorem pack_and_1700 (c v : Bool) (st : StateCode) (b : Byte) :
    pack c v st b &&& 0x1700 = pack c false st 0 := by
  apply BitVec.eq_of_getLsbD_eq
  intro i hi
  rw [BitVec.getLsbD_and, getLsbD_pack, getLsbD_pack]
  interval_cases i <;> simp

/-- The mask 0x1800 sees `clr` and `vld`. -/
theorem pack_and_1800 (c v : Bool) (st : StateCode) (b : Byte) :
    pack c v st b &&& 0x1800 = pack c v .idle 0 := by
  apply BitVec.eq_of_getLsbD_eq
  intro i hi
  rw [BitVec.getLsbD_and, getLsbD_pack, getLsbD_pack]
  interval_cases i <;> simp [StateCode.code]

/-- The mask 0x1000 sees `clr`. -/
theorem pack_and_1000 (c v : Bool) (st : StateCode) (b : Byte) :
    pack c v st b &&& 0x1000 = pack c false .idle 0 := by
  apply BitVec.eq_of_getLsbD_eq
  intro i hi
  rw [BitVec.getLsbD_and, getLsbD_pack, getLsbD_pack]
  interval_cases i <;> simp [StateCode.code]

/-- The mask 0x1FFF sees the whole word. -/
theorem and_1FFF (w : OpWord) : w &&& 0x1FFF = w := by
  rw [show (0x1FFF : OpWord) = BitVec.allOnes 13 from rfl, BitVec.and_allOnes]

end OpWord

end Sys2Proof
end

