-- ==== Sys2Proof/Laws/State.lean ====
section
/-!
SUPPORT. One lemma per field per update of State: what each shared operation of Machine/Ops.lean and
Machine/Operands.lean leaves in every register, so that no later proof unfolds a record update.
-/

namespace Sys2Proof.Machine

@[simp] theorem goto_state (s : State) (st : StateCode) : (s.goto st).state = st := rfl
@[simp] theorem goto_dir (s : State) (st : StateCode) : (s.goto st).dir = s.dir := rfl
@[simp] theorem goto_len (s : State) (st : StateCode) : (s.goto st).len = s.len := rfl
@[simp] theorem goto_cmd (s : State) (st : StateCode) : (s.goto st).cmd = s.cmd := rfl
@[simp] theorem goto_cks (s : State) (st : StateCode) : (s.goto st).cks = s.cks := rfl
@[simp] theorem goto_idx (s : State) (st : StateCode) : (s.goto st).idx = s.idx := rfl
@[simp] theorem goto_buf (s : State) (st : StateCode) : (s.goto st).buf = s.buf := rfl
@[simp] theorem goto_outVld (s : State) (st : StateCode) : (s.goto st).outVld = s.outVld := rfl
@[simp] theorem goto_outDir (s : State) (st : StateCode) : (s.goto st).outDir = s.outDir := rfl
@[simp] theorem goto_outLen (s : State) (st : StateCode) : (s.goto st).outLen = s.outLen := rfl
@[simp] theorem goto_outCmd (s : State) (st : StateCode) : (s.goto st).outCmd = s.outCmd := rfl
@[simp] theorem goto_outCks (s : State) (st : StateCode) : (s.goto st).outCks = s.outCks := rfl
@[simp] theorem goto_obuf (s : State) (st : StateCode) : (s.goto st).obuf = s.obuf := rfl
@[simp] theorem goto_evt (s : State) (st : StateCode) : (s.goto st).evt = s.evt := rfl
@[simp] theorem goto_op (s : State) (st : StateCode) : (s.goto st).op = s.op := rfl
@[simp] theorem goto_cfg (s : State) (st : StateCode) : (s.goto st).cfg = s.cfg := rfl
@[simp] theorem goto_inputs (s : State) (st : StateCode) : (s.goto st).inputs = s.inputs := rfl
@[simp] theorem goto_draws (s : State) (st : StateCode) : (s.goto st).draws = s.draws := rfl

@[simp] theorem recover_state (s : State) : (s.recover).state = .idle := rfl
@[simp] theorem recover_dir (s : State) : (s.recover).dir = s.dir := rfl
@[simp] theorem recover_len (s : State) : (s.recover).len = s.len := rfl
@[simp] theorem recover_cmd (s : State) : (s.recover).cmd = s.cmd := rfl
@[simp] theorem recover_cks (s : State) : (s.recover).cks = s.cks := rfl
@[simp] theorem recover_idx (s : State) : (s.recover).idx = s.idx := rfl
@[simp] theorem recover_buf (s : State) : (s.recover).buf = s.buf := rfl
@[simp] theorem recover_outVld (s : State) : (s.recover).outVld = s.outVld := rfl
@[simp] theorem recover_outDir (s : State) : (s.recover).outDir = s.outDir := rfl
@[simp] theorem recover_outLen (s : State) : (s.recover).outLen = s.outLen := rfl
@[simp] theorem recover_outCmd (s : State) : (s.recover).outCmd = s.outCmd := rfl
@[simp] theorem recover_outCks (s : State) : (s.recover).outCks = s.outCks := rfl
@[simp] theorem recover_obuf (s : State) : (s.recover).obuf = s.obuf := rfl
@[simp] theorem recover_evt (s : State) : (s.recover).evt = s.evt := rfl
@[simp] theorem recover_op (s : State) : (s.recover).op = s.op := rfl
@[simp] theorem recover_cfg (s : State) : (s.recover).cfg = s.cfg := rfl
@[simp] theorem recover_inputs (s : State) : (s.recover).inputs = s.inputs := rfl
@[simp] theorem recover_draws (s : State) : (s.recover).draws = s.draws := rfl

@[simp] theorem accumulate_state (s : State) (b : Byte) : (s.accumulate b).state = s.state := rfl
@[simp] theorem accumulate_dir (s : State) (b : Byte) : (s.accumulate b).dir = s.dir := rfl
@[simp] theorem accumulate_len (s : State) (b : Byte) : (s.accumulate b).len = s.len := rfl
@[simp] theorem accumulate_cmd (s : State) (b : Byte) : (s.accumulate b).cmd = s.cmd := rfl
@[simp] theorem accumulate_cks (s : State) (b : Byte) : (s.accumulate b).cks = xorAcc s.cks b := rfl
@[simp] theorem accumulate_idx (s : State) (b : Byte) : (s.accumulate b).idx = s.idx := rfl
@[simp] theorem accumulate_buf (s : State) (b : Byte) : (s.accumulate b).buf = s.buf := rfl
@[simp] theorem accumulate_outVld (s : State) (b : Byte) : (s.accumulate b).outVld = s.outVld := rfl
@[simp] theorem accumulate_outDir (s : State) (b : Byte) : (s.accumulate b).outDir = s.outDir := rfl
@[simp] theorem accumulate_outLen (s : State) (b : Byte) : (s.accumulate b).outLen = s.outLen := rfl
@[simp] theorem accumulate_outCmd (s : State) (b : Byte) : (s.accumulate b).outCmd = s.outCmd := rfl
@[simp] theorem accumulate_outCks (s : State) (b : Byte) : (s.accumulate b).outCks = s.outCks := rfl
@[simp] theorem accumulate_obuf (s : State) (b : Byte) : (s.accumulate b).obuf = s.obuf := rfl
@[simp] theorem accumulate_evt (s : State) (b : Byte) : (s.accumulate b).evt = s.evt := rfl
@[simp] theorem accumulate_op (s : State) (b : Byte) : (s.accumulate b).op = s.op := rfl
@[simp] theorem accumulate_cfg (s : State) (b : Byte) : (s.accumulate b).cfg = s.cfg := rfl
@[simp] theorem accumulate_inputs (s : State) (b : Byte) : (s.accumulate b).inputs = s.inputs := rfl
@[simp] theorem accumulate_draws (s : State) (b : Byte) : (s.accumulate b).draws = s.draws := rfl

@[simp] theorem takeCommand_state (s : State) (b : Byte) : (s.takeCommand b).state = s.state := rfl
@[simp] theorem takeCommand_dir (s : State) (b : Byte) : (s.takeCommand b).dir = s.dir := rfl
@[simp] theorem takeCommand_len (s : State) (b : Byte) : (s.takeCommand b).len = s.len := rfl
@[simp] theorem takeCommand_cmd (s : State) (b : Byte) : (s.takeCommand b).cmd = b := rfl
@[simp] theorem takeCommand_cks (s : State) (b : Byte) : (s.takeCommand b).cks = xorAcc s.cks b := rfl
@[simp] theorem takeCommand_idx (s : State) (b : Byte) : (s.takeCommand b).idx = s.idx := rfl
@[simp] theorem takeCommand_buf (s : State) (b : Byte) : (s.takeCommand b).buf = s.buf := rfl
@[simp] theorem takeCommand_outVld (s : State) (b : Byte) : (s.takeCommand b).outVld = s.outVld := rfl
@[simp] theorem takeCommand_outDir (s : State) (b : Byte) : (s.takeCommand b).outDir = s.outDir := rfl
@[simp] theorem takeCommand_outLen (s : State) (b : Byte) : (s.takeCommand b).outLen = s.outLen := rfl
@[simp] theorem takeCommand_outCmd (s : State) (b : Byte) : (s.takeCommand b).outCmd = s.outCmd := rfl
@[simp] theorem takeCommand_outCks (s : State) (b : Byte) : (s.takeCommand b).outCks = s.outCks := rfl
@[simp] theorem takeCommand_obuf (s : State) (b : Byte) : (s.takeCommand b).obuf = s.obuf := rfl
@[simp] theorem takeCommand_evt (s : State) (b : Byte) : (s.takeCommand b).evt = s.evt := rfl
@[simp] theorem takeCommand_op (s : State) (b : Byte) : (s.takeCommand b).op = s.op := rfl
@[simp] theorem takeCommand_cfg (s : State) (b : Byte) : (s.takeCommand b).cfg = s.cfg := rfl
@[simp] theorem takeCommand_inputs (s : State) (b : Byte) : (s.takeCommand b).inputs = s.inputs := rfl
@[simp] theorem takeCommand_draws (s : State) (b : Byte) : (s.takeCommand b).draws = s.draws := rfl

@[simp] theorem writeBuf_state (s : State) (i : Nat) (b : Byte) : (s.writeBuf i b).state = s.state := by unfold State.writeBuf; split <;> rfl
@[simp] theorem writeBuf_dir (s : State) (i : Nat) (b : Byte) : (s.writeBuf i b).dir = s.dir := by unfold State.writeBuf; split <;> rfl
@[simp] theorem writeBuf_len (s : State) (i : Nat) (b : Byte) : (s.writeBuf i b).len = s.len := by unfold State.writeBuf; split <;> rfl
@[simp] theorem writeBuf_cmd (s : State) (i : Nat) (b : Byte) : (s.writeBuf i b).cmd = s.cmd := by unfold State.writeBuf; split <;> rfl
@[simp] theorem writeBuf_cks (s : State) (i : Nat) (b : Byte) : (s.writeBuf i b).cks = s.cks := by unfold State.writeBuf; split <;> rfl
@[simp] theorem writeBuf_idx (s : State) (i : Nat) (b : Byte) : (s.writeBuf i b).idx = s.idx := by unfold State.writeBuf; split <;> rfl
@[simp] theorem writeBuf_outVld (s : State) (i : Nat) (b : Byte) : (s.writeBuf i b).outVld = s.outVld := by unfold State.writeBuf; split <;> rfl
@[simp] theorem writeBuf_outDir (s : State) (i : Nat) (b : Byte) : (s.writeBuf i b).outDir = s.outDir := by unfold State.writeBuf; split <;> rfl
@[simp] theorem writeBuf_outLen (s : State) (i : Nat) (b : Byte) : (s.writeBuf i b).outLen = s.outLen := by unfold State.writeBuf; split <;> rfl
@[simp] theorem writeBuf_outCmd (s : State) (i : Nat) (b : Byte) : (s.writeBuf i b).outCmd = s.outCmd := by unfold State.writeBuf; split <;> rfl
@[simp] theorem writeBuf_outCks (s : State) (i : Nat) (b : Byte) : (s.writeBuf i b).outCks = s.outCks := by unfold State.writeBuf; split <;> rfl
@[simp] theorem writeBuf_obuf (s : State) (i : Nat) (b : Byte) : (s.writeBuf i b).obuf = s.obuf := by unfold State.writeBuf; split <;> rfl
@[simp] theorem writeBuf_evt (s : State) (i : Nat) (b : Byte) : (s.writeBuf i b).evt = s.evt := by unfold State.writeBuf; split <;> rfl
@[simp] theorem writeBuf_op (s : State) (i : Nat) (b : Byte) : (s.writeBuf i b).op = s.op := by unfold State.writeBuf; split <;> rfl
@[simp] theorem writeBuf_cfg (s : State) (i : Nat) (b : Byte) : (s.writeBuf i b).cfg = s.cfg := by unfold State.writeBuf; split <;> rfl
@[simp] theorem writeBuf_inputs (s : State) (i : Nat) (b : Byte) : (s.writeBuf i b).inputs = s.inputs := by unfold State.writeBuf; split <;> rfl
@[simp] theorem writeBuf_draws (s : State) (i : Nat) (b : Byte) : (s.writeBuf i b).draws = s.draws := by unfold State.writeBuf; split <;> rfl

@[simp] theorem appendPayload_state (s : State) (b : Byte) : (s.appendPayload b).state = s.state := by simp [State.appendPayload]
@[simp] theorem appendPayload_dir (s : State) (b : Byte) : (s.appendPayload b).dir = s.dir := by simp [State.appendPayload]
@[simp] theorem appendPayload_len (s : State) (b : Byte) : (s.appendPayload b).len = s.len := by simp [State.appendPayload]
@[simp] theorem appendPayload_cmd (s : State) (b : Byte) : (s.appendPayload b).cmd = s.cmd := by simp [State.appendPayload]
@[simp] theorem appendPayload_cks (s : State) (b : Byte) : (s.appendPayload b).cks = xorAcc s.cks b := by simp [State.appendPayload]
@[simp] theorem appendPayload_idx (s : State) (b : Byte) : (s.appendPayload b).idx = nextIdx s.idx := rfl
@[simp] theorem appendPayload_buf (s : State) (b : Byte) : (s.appendPayload b).buf = (s.writeBuf s.idx.toNat b).buf := rfl
@[simp] theorem appendPayload_outVld (s : State) (b : Byte) : (s.appendPayload b).outVld = s.outVld := by simp [State.appendPayload]
@[simp] theorem appendPayload_outDir (s : State) (b : Byte) : (s.appendPayload b).outDir = s.outDir := by simp [State.appendPayload]
@[simp] theorem appendPayload_outLen (s : State) (b : Byte) : (s.appendPayload b).outLen = s.outLen := by simp [State.appendPayload]
@[simp] theorem appendPayload_outCmd (s : State) (b : Byte) : (s.appendPayload b).outCmd = s.outCmd := by simp [State.appendPayload]
@[simp] theorem appendPayload_outCks (s : State) (b : Byte) : (s.appendPayload b).outCks = s.outCks := by simp [State.appendPayload]
@[simp] theorem appendPayload_obuf (s : State) (b : Byte) : (s.appendPayload b).obuf = s.obuf := by simp [State.appendPayload]
@[simp] theorem appendPayload_evt (s : State) (b : Byte) : (s.appendPayload b).evt = s.evt := by simp [State.appendPayload]
@[simp] theorem appendPayload_op (s : State) (b : Byte) : (s.appendPayload b).op = s.op := by simp [State.appendPayload]
@[simp] theorem appendPayload_cfg (s : State) (b : Byte) : (s.appendPayload b).cfg = s.cfg := by simp [State.appendPayload]
@[simp] theorem appendPayload_inputs (s : State) (b : Byte) : (s.appendPayload b).inputs = s.inputs := by simp [State.appendPayload]
@[simp] theorem appendPayload_draws (s : State) (b : Byte) : (s.appendPayload b).draws = s.draws := by simp [State.appendPayload]

@[simp] theorem latchOut_state (s : State) (b : Byte) : (s.latchOut b).state = s.state := rfl
@[simp] theorem latchOut_dir (s : State) (b : Byte) : (s.latchOut b).dir = s.dir := rfl
@[simp] theorem latchOut_len (s : State) (b : Byte) : (s.latchOut b).len = s.len := rfl
@[simp] theorem latchOut_cmd (s : State) (b : Byte) : (s.latchOut b).cmd = s.cmd := rfl
@[simp] theorem latchOut_cks (s : State) (b : Byte) : (s.latchOut b).cks = s.cks := rfl
@[simp] theorem latchOut_idx (s : State) (b : Byte) : (s.latchOut b).idx = s.idx := rfl
@[simp] theorem latchOut_buf (s : State) (b : Byte) : (s.latchOut b).buf = s.buf := rfl
@[simp] theorem latchOut_outVld (s : State) (b : Byte) : (s.latchOut b).outVld = true := rfl
@[simp] theorem latchOut_outDir (s : State) (b : Byte) : (s.latchOut b).outDir = s.dir := rfl
@[simp] theorem latchOut_outLen (s : State) (b : Byte) : (s.latchOut b).outLen = s.len := rfl
@[simp] theorem latchOut_outCmd (s : State) (b : Byte) : (s.latchOut b).outCmd = s.cmd := rfl
@[simp] theorem latchOut_outCks (s : State) (b : Byte) : (s.latchOut b).outCks = b := rfl
@[simp] theorem latchOut_obuf (s : State) (b : Byte) : (s.latchOut b).obuf = s.buf.below (min s.len.toNat (Config.bufDepth s.cfg)) := rfl
@[simp] theorem latchOut_evt (s : State) (b : Byte) : (s.latchOut b).evt = s.evt := rfl
@[simp] theorem latchOut_op (s : State) (b : Byte) : (s.latchOut b).op = s.op := rfl
@[simp] theorem latchOut_cfg (s : State) (b : Byte) : (s.latchOut b).cfg = s.cfg := rfl
@[simp] theorem latchOut_inputs (s : State) (b : Byte) : (s.latchOut b).inputs = s.inputs := rfl
@[simp] theorem latchOut_draws (s : State) (b : Byte) : (s.latchOut b).draws = s.draws := rfl

@[simp] theorem takeInput_state (s : State) : (s.takeInput).state = s.state := rfl
@[simp] theorem takeInput_dir (s : State) : (s.takeInput).dir = s.dir := rfl
@[simp] theorem takeInput_len (s : State) : (s.takeInput).len = s.len := rfl
@[simp] theorem takeInput_cmd (s : State) : (s.takeInput).cmd = s.cmd := rfl
@[simp] theorem takeInput_cks (s : State) : (s.takeInput).cks = s.cks := rfl
@[simp] theorem takeInput_idx (s : State) : (s.takeInput).idx = s.idx := rfl
@[simp] theorem takeInput_buf (s : State) : (s.takeInput).buf = s.buf := rfl
@[simp] theorem takeInput_outVld (s : State) : (s.takeInput).outVld = s.outVld := rfl
@[simp] theorem takeInput_outDir (s : State) : (s.takeInput).outDir = s.outDir := rfl
@[simp] theorem takeInput_outLen (s : State) : (s.takeInput).outLen = s.outLen := rfl
@[simp] theorem takeInput_outCmd (s : State) : (s.takeInput).outCmd = s.outCmd := rfl
@[simp] theorem takeInput_outCks (s : State) : (s.takeInput).outCks = s.outCks := rfl
@[simp] theorem takeInput_obuf (s : State) : (s.takeInput).obuf = s.obuf := rfl
@[simp] theorem takeInput_evt (s : State) : (s.takeInput).evt = s.evt := rfl
@[simp] theorem takeInput_op (s : State) : (s.takeInput).op = s.op := rfl
@[simp] theorem takeInput_cfg (s : State) : (s.takeInput).cfg = s.cfg := rfl
@[simp] theorem takeInput_inputs (s : State) : (s.takeInput).inputs = s.inputs.tail := rfl
@[simp] theorem takeInput_draws (s : State) : (s.takeInput).draws = s.draws + 1 := rfl

@[simp] theorem writeBuf_buf_in_range (s : State) (i : Nat) (b : Byte) (h : i < Config.bufDepth s.cfg) :
    (s.writeBuf i b).buf = s.buf.write i b := by simp [State.writeBuf, h]

@[simp] theorem writeBuf_beyond (s : State) (i : Nat) (b : Byte) (h : Config.bufDepth s.cfg ≤ i) :
    s.writeBuf i b = s := by simp [State.writeBuf, Nat.not_lt.mpr h]

theorem enterInit_eq (s : State) : s.enterInit = State.init s.cfg s.inputs s.draws := rfl

/-- The epilogue always completes, with the event and the operation's code. -/
theorem done_eq (s : State) (e : Event) (i : Instr) : s.done e i = .next { s with evt := e, op := i.opCode } := rfl

/-- What an operation can do through the epilogue, said once. -/
theorem done_next_iff (s t : State) (e : Event) (i : Instr) :
    s.done e i = .next t ↔ t = { s with evt := e, op := i.opCode } := by
  rw [done_eq]; constructor
  · intro h; cases h; rfl
  · rintro rfl; rfl

end Sys2Proof.Machine
end

