-- ==== Sys2Proof/Laws/Exec.lean ====
section
/-!
SUPPORT. What a step can do, said once: every operation completes, what no operation touches, and the cases of
`step`.
-/

namespace Sys2Proof.Machine

@[simp] theorem guardCtx_takeInput (s : State) : s.takeInput.guardCtx = s.guardCtx := rfl

/-- No operation stops the machine. -/
theorem exec_completes (i : Instr) (s : State) : ∃ t, exec i s = .next t := by
  cases i <;> exact ⟨_, rfl⟩

/-- What an operation leaves alone whatever it is: the parameters, the edges to come, the count of edges. -/
theorem exec_rest {i : Instr} {s t : State} (h : exec i s = .next t) :
    t.cfg = s.cfg ∧ t.inputs = s.inputs ∧ t.draws = s.draws := by
  cases i <;> (cases h; simp)

/-- The epilogue of every operation: the code it leaves in `op` (30_encoding.md R86). -/
theorem exec_op {i : Instr} {s t : State} (h : exec i s = .next t) : t.op = i.opCode := by
  cases i <;> (cases h; rfl)

/-! One equation per operation: the state it answers, every field it writes written out. -/

theorem exec_clr (v : Bool) (st : StateCode) (b : Byte) (s : State) :
    exec (.clr v st b) s = .next { s with state := .idle, evt := .evNone, op := 1 } := rfl

theorem exec_ill (v : Bool) (b : Byte) (s : State) :
    exec (.ill v b) s = .next { s with state := .idle, evt := .evNone, op := 2 } := rfl

theorem exec_nop (st : StateCode) (b : Byte) (s : State) :
    exec (.nop st b) s = .next { s with evt := .evNone, op := 0 } := rfl

theorem exec_idleSync0 (s : State) :
    exec .idleSync0 s = .next { s with state := .header, evt := .evNone, op := 3 } := rfl

theorem exec_idleSkip (b : Byte) (s : State) :
    exec (.idleSkip b) s = .next { s with state := .idle, evt := .evNone, op := 4 } := rfl

theorem exec_hdrSync1 (s : State) :
    exec .hdrSync1 s = .next { s with state := .direction, evt := .evNone, op := 5 } := rfl

theorem exec_hdrRej (b : Byte) (s : State) :
    exec (.hdrRej b) s = .next { s with state := .idle, evt := .evNone, op := 6 } := rfl

theorem exec_dirReq (b : Byte) (s : State) :
    exec (.dirReq b) s = .next { s with dir := .request, state := .length, evt := .evNone, op := 7 } := rfl

theorem exec_dirRsp (b : Byte) (s : State) :
    exec (.dirRsp b) s = .next { s with dir := .response, state := .length, evt := .evNone, op := 8 } := rfl

theorem exec_dirRej (b : Byte) (s : State) :
    exec (.dirRej b) s = .next { s with state := .idle, evt := .evNone, op := 9 } := rfl

theorem exec_lenOk (b : Byte) (s : State) :
    exec (.lenOk b) s =
      .next { s with len := b, cks := b, idx := 0, state := .command, evt := .evNone, op := 10 } := rfl

theorem exec_lenRej (b : Byte) (s : State) :
    exec (.lenRej b) s = .next { s with state := .idle, evt := .evNone, op := 11 } := rfl

theorem exec_cmdPay (b : Byte) (s : State) :
    exec (.cmdPay b) s =
      .next { s with cmd := b, cks := xorAcc s.cks b, state := .payload, evt := .evNone, op := 12 } := rfl

theorem exec_cmdEnd (b : Byte) (s : State) :
    exec (.cmdEnd b) s =
      .next { s with cmd := b, cks := xorAcc s.cks b, state := .checksum, evt := .evNone, op := 13 } := rfl

theorem appendPayload_eq (s : State) (b : Byte) :
    s.appendPayload b =
      { s with buf := (s.writeBuf s.idx.toNat b).buf, cks := xorAcc s.cks b, idx := nextIdx s.idx } := by
  unfold State.appendPayload State.writeBuf
  split <;> rfl

theorem exec_payMore (b : Byte) (s : State) :
    exec (.payMore b) s =
      .next { s with buf := (s.writeBuf s.idx.toNat b).buf, cks := xorAcc s.cks b, idx := nextIdx s.idx,
                     state := .payload, evt := .evNone, op := 14 } := by
  change (((s.appendPayload b).goto .payload).done .evNone (.payMore b)) = _
  rw [appendPayload_eq]; rfl

theorem exec_payLast (b : Byte) (s : State) :
    exec (.payLast b) s =
      .next { s with buf := (s.writeBuf s.idx.toNat b).buf, cks := xorAcc s.cks b, idx := nextIdx s.idx,
                     state := .checksum, evt := .evNone, op := 15 } := by
  change (((s.appendPayload b).goto .checksum).done .evNone (.payLast b)) = _
  rw [appendPayload_eq]; rfl

theorem exec_cksOk (b : Byte) (s : State) :
    exec (.cksOk b) s =
      .next { s with outVld := true, outDir := s.dir, outLen := s.len, outCmd := s.cmd, outCks := b,
                     obuf := s.buf.below (min s.len.toNat (Config.bufDepth s.cfg)),
                     state := .idle, evt := .evMsg, op := 16 } := rfl

theorem exec_cksBad (b : Byte) (s : State) :
    exec (.cksBad b) s = .next { s with state := .idle, evt := .evCksumErr, op := 17 } := rfl

/-- Which edges answer a next state, and which state: an edge with `rst` enters INIT; any other edge is the
operation its word selects. -/
theorem step_next_iff {s t : State} :
    step s = .next t ↔ Config.wf s.cfg = true ∧
      ((s.nextInput.rst = true ∧ t = s.takeInput.enterInit) ∨
       (s.nextInput.rst = false ∧ exec (s.operation s.nextInput) s.takeInput = .next t)) := by
  unfold step
  by_cases hc : Config.wf s.cfg = true
  · by_cases hr : s.nextInput.rst = true
    · simp only [hc, hr, if_true, true_and, Bool.true_eq_false, false_and, or_false]
      constructor
      · intro h; cases h; rfl
      · rintro rfl; rfl
    · have hr' : s.nextInput.rst = false := by simpa using hr
      simp [hc, hr']
  · simp [hc]

/-- The next input where one is listed. -/
theorem nextInput_cons {s : State} {inp : StepInput} {rest : List StepInput} (h : s.inputs = inp :: rest) :
    s.nextInput = inp := by simp [State.nextInput, h]

/-- A run of one edge more. -/
theorem run_succ (k : Nat) (s : State) {t : State} (h : step s = .next t) :
    Host.Core.run Sys2Proof.core (k + 1) s = Host.Core.run Sys2Proof.core k t := by
  simp only [Host.Core.run, show Sys2Proof.core.step s = .next t from h]

/-- The operation that a word selects, by the fields of the input. -/
theorem operation_eq (s : State) (inp : StepInput) :
    s.operation inp =
      if inp.clr then .clr inp.vld s.state inp.b
      else if s.state = .unused7 then .ill inp.vld inp.b
      else if inp.vld then decodeByte s.guardCtx inp.b s.state
      else .nop s.state inp.b := by
  simp [State.operation, State.opWord, decode]

/-- Which operation an edge without `rst` takes, case by case: the rows of 30_encoding.md R80 with their guards, said
once. -/
theorem operation_cases (s : State) (inp : StepInput) :
    (inp.clr = true ∧ s.operation inp = .clr inp.vld s.state inp.b) ∨
    (inp.clr = false ∧ s.state = .unused7 ∧ s.operation inp = .ill inp.vld inp.b) ∨
    (inp.clr = false ∧ inp.vld = false ∧ s.state ≠ .unused7 ∧ s.operation inp = .nop s.state inp.b) ∨
    (inp.clr = false ∧ inp.vld = true ∧ s.state = .idle ∧ inp.b = 0x24 ∧ s.operation inp = .idleSync0) ∨
    (inp.clr = false ∧ inp.vld = true ∧ s.state = .idle ∧ inp.b ≠ 0x24 ∧ s.operation inp = .idleSkip inp.b) ∨
    (inp.clr = false ∧ inp.vld = true ∧ s.state = .header ∧ inp.b = 0x43 ∧ s.operation inp = .hdrSync1) ∨
    (inp.clr = false ∧ inp.vld = true ∧ s.state = .header ∧ inp.b ≠ 0x43 ∧ s.operation inp = .hdrRej inp.b) ∨
    (inp.clr = false ∧ inp.vld = true ∧ s.state = .direction ∧ inp.b = s.cfg.dirRequest ∧ s.operation inp = .dirReq inp.b) ∨
    (inp.clr = false ∧ inp.vld = true ∧ s.state = .direction ∧ inp.b ≠ s.cfg.dirRequest ∧ inp.b = s.cfg.dirResponse ∧ s.operation inp = .dirRsp inp.b) ∨
    (inp.clr = false ∧ inp.vld = true ∧ s.state = .direction ∧ inp.b ≠ s.cfg.dirRequest ∧ inp.b ≠ s.cfg.dirResponse ∧ s.operation inp = .dirRej inp.b) ∨
    (inp.clr = false ∧ inp.vld = true ∧ s.state = .length ∧ inp.b.toNat ≤ s.cfg.lenLimit.toNat ∧ s.operation inp = .lenOk inp.b) ∨
    (inp.clr = false ∧ inp.vld = true ∧ s.state = .length ∧ s.cfg.lenLimit.toNat < inp.b.toNat ∧ s.operation inp = .lenRej inp.b) ∨
    (inp.clr = false ∧ inp.vld = true ∧ s.state = .command ∧ s.len ≠ 0 ∧ s.operation inp = .cmdPay inp.b) ∨
    (inp.clr = false ∧ inp.vld = true ∧ s.state = .command ∧ s.len = 0 ∧ s.operation inp = .cmdEnd inp.b) ∨
    (inp.clr = false ∧ inp.vld = true ∧ s.state = .payload ∧ s.idx.toNat + 1 < s.len.toNat ∧ s.operation inp = .payMore inp.b) ∨
    (inp.clr = false ∧ inp.vld = true ∧ s.state = .payload ∧ s.len.toNat ≤ s.idx.toNat + 1 ∧ s.operation inp = .payLast inp.b) ∨
    (inp.clr = false ∧ inp.vld = true ∧ s.state = .checksum ∧ inp.b = s.cks ∧ s.operation inp = .cksOk inp.b) ∨
    (inp.clr = false ∧ inp.vld = true ∧ s.state = .checksum ∧ inp.b ≠ s.cks ∧ s.operation inp = .cksBad inp.b) := by
  rw [operation_eq]
  cases hc : inp.clr with
  | true => simp
  | false =>
    cases hv : inp.vld with
    | false => by_cases h7 : s.state = .unused7 <;> simp [h7]
    | true =>
      cases hs : s.state with
      | idle => by_cases h : inp.b = 0x24#8 <;> simp [decodeByte, Config.sync0, h]
      | header => by_cases h : inp.b = 0x43#8 <;> simp [decodeByte, Config.sync1, h]
      | direction =>
        by_cases h : inp.b = s.cfg.dirRequest
        · simp [decodeByte, State.guardCtx, h]
        · by_cases h' : inp.b = s.cfg.dirResponse
          · have hne : ¬ s.cfg.dirResponse = s.cfg.dirRequest := fun hh => h (h'.trans hh)
            simp [decodeByte, State.guardCtx, h', hne]
          · simp [decodeByte, State.guardCtx, h, h']
      | length =>
        by_cases h : inp.b.toNat ≤ s.cfg.lenLimit.toNat
        · simp [decodeByte, State.guardCtx, GuardCtx.lenFits, BitVec.le_def, h]
        · simp [decodeByte, State.guardCtx, GuardCtx.lenFits, BitVec.le_def, h]; omega
      | command => by_cases h : s.len = 0#8 <;> simp [decodeByte, State.guardCtx, h]
      | payload =>
        by_cases h : s.idx.toNat + 1 < s.len.toNat
        · simp [decodeByte, State.guardCtx, GuardCtx.moreToCome, h]
        · simp [decodeByte, State.guardCtx, GuardCtx.moreToCome, h]; omega
      | checksum => by_cases h : inp.b = s.cks <;> simp [decodeByte, State.guardCtx, h]
      | unused7 => simp

/-! What the masks of the table see of a step's word. -/

theorem opWord_and_1000 (s : State) (inp : StepInput) : s.opWord inp &&& 0x1000 = 0x1000 ↔ inp.clr = true := by
  rw [State.opWord, OpWord.pack_and_1000, show (0x1000 : OpWord) = OpWord.pack true false .idle 0 by decide,
    OpWord.pack_inj]
  simp

theorem opWord_and_1700 (s : State) (inp : StepInput) :
    s.opWord inp &&& 0x1700 = 0x0700 ↔ inp.clr = false ∧ s.state = .unused7 := by
  rw [State.opWord, OpWord.pack_and_1700, show (0x0700 : OpWord) = OpWord.pack false false .unused7 0 by decide,
    OpWord.pack_inj]
  simp

theorem opWord_and_1800 (s : State) (inp : StepInput) :
    s.opWord inp &&& 0x1800 = 0x0000 ↔ inp.clr = false ∧ inp.vld = false := by
  rw [State.opWord, OpWord.pack_and_1800, show (0x0000 : OpWord) = OpWord.pack false false .idle 0 by decide,
    OpWord.pack_inj]
  simp

/-- The rows of the mask 0x1F00: `st` stands for the row's state, `v` for `vld`. -/
theorem opWord_and_1F00 (s : State) (inp : StepInput) (v : Bool) (st : StateCode) :
    s.opWord inp &&& 0x1F00 = OpWord.pack false v st 0 ↔ inp.clr = false ∧ inp.vld = v ∧ s.state = st := by
  rw [State.opWord, OpWord.pack_and_1F00, OpWord.pack_inj]
  simp

/-- The rows of the mask 0x1FFF. -/
theorem opWord_and_1FFF (s : State) (inp : StepInput) (v : Bool) (st : StateCode) (b : Byte) :
    s.opWord inp &&& 0x1FFF = OpWord.pack false v st b ↔
      inp.clr = false ∧ inp.vld = v ∧ s.state = st ∧ inp.b = b := by
  rw [OpWord.and_1FFF, State.opWord, OpWord.pack_inj]

end Sys2Proof.Machine
end

