-- ==== Sys2Proof/Laws/Memory.lean ====
section
/-!
SUPPORT. The laws of the two byte arrays: reading after writing, and that every operation keeps the canonical
form and the bound on indices.
-/

namespace Sys2Proof.Machine

namespace Memory

@[simp] theorem read_nil (i : Nat) : Memory.read [] i = 0 := rfl

@[simp] theorem wf_nil : Memory.wf [] = true := rfl

@[simp] theorem within_nil (n : Nat) : Memory.within [] n = true := rfl

theorem wfFrom_cons {lo a : Nat} {v : Byte} {m : Memory} :
    wfFrom lo ((a, v) :: m) = true ↔ lo ≤ a ∧ v ≠ 0 ∧ wfFrom (a + 1) m = true := by
  simp [wfFrom, unlisted, and_assoc]

theorem wfFrom_mono {lo hi : Nat} {m : Memory} (hle : lo ≤ hi) (h : wfFrom hi m = true) : wfFrom lo m = true := by
  cases m with
  | nil => rfl
  | cons c m =>
    obtain ⟨a, v⟩ := c
    rw [wfFrom_cons] at h ⊢
    exact ⟨by omega, h.2⟩

/-- Below the lower bound of a canonical list nothing is listed. -/
theorem read_below_bound {lo i : Nat} {m : Memory} (h : wfFrom lo m = true) (hi : i < lo) : m.read i = 0 := by
  induction m generalizing lo with
  | nil => rfl
  | cons c m ih =>
    obtain ⟨a, v⟩ := c
    rw [wfFrom_cons] at h
    have hne : i ≠ a := by omega
    simp only [read, hne, if_false]
    exact ih h.2.2 (by omega)

theorem wfFrom_write {lo : Nat} {m : Memory} (h : wfFrom lo m = true) {i : Nat} (hi : lo ≤ i) (x : Byte) :
    wfFrom lo (m.write i x) = true := by
  induction m generalizing lo with
  | nil => by_cases hx : x = unlisted <;> simp [write, hx, wfFrom, hi]
  | cons c m ih =>
    obtain ⟨a, v⟩ := c
    rw [wfFrom_cons] at h
    obtain ⟨hlo, hv, hm⟩ := h
    unfold write
    split
    · split
      · exact wfFrom_cons.mpr ⟨hlo, hv, hm⟩
      · exact wfFrom_cons.mpr ⟨hi, ‹_›, wfFrom_cons.mpr ⟨by omega, hv, hm⟩⟩
    · split
      · subst_vars
        split
        · exact wfFrom_mono (by omega) hm
        · exact wfFrom_cons.mpr ⟨hlo, ‹_›, hm⟩
      · exact wfFrom_cons.mpr ⟨hlo, hv, ih hm (by omega)⟩

/-- A write keeps the canonical form. -/
theorem wf_write {m : Memory} (h : m.wf = true) (i : Nat) (x : Byte) : (m.write i x).wf = true :=
  wfFrom_write h (Nat.zero_le i) x

/-- A read after a write to the same index gives the byte written. -/
theorem read_write_same_from {lo : Nat} {m : Memory} (h : wfFrom lo m = true) (i : Nat) (x : Byte) :
    (m.write i x).read i = x := by
  induction m generalizing lo with
  | nil => by_cases hx : x = 0#8 <;> simp [write, hx, read, show unlisted = (0#8 : Byte) from rfl]
  | cons c m ih =>
    obtain ⟨a, v⟩ := c
    rw [wfFrom_cons] at h
    obtain ⟨hlo, hv, hm⟩ := h
    unfold write
    by_cases hia : i < a
    · simp only [hia, if_true]
      split
      · next hx => rw [hx]; exact read_below_bound (lo := a) (wfFrom_cons.mpr ⟨le_rfl, hv, hm⟩) hia
      · simp [read]
    · by_cases hie : i = a
      · subst hie
        simp only [Nat.lt_irrefl, if_false, if_true]
        split
        · next hx => rw [hx]; exact read_below_bound hm (Nat.lt_succ_self i)
        · simp [read]
      · simp only [hia, hie, if_false, read]
        exact ih hm

theorem read_write_same {m : Memory} (h : m.wf = true) (i : Nat) (x : Byte) : (m.write i x).read i = x :=
  read_write_same_from h i x

/-- A write leaves every other index alone. -/
theorem read_write_other (m : Memory) {i j : Nat} (hij : j ≠ i) (x : Byte) : (m.write i x).read j = m.read j := by
  induction m with
  | nil => by_cases hx : x = 0#8 <;> simp [write, hx, read, hij, show unlisted = (0#8 : Byte) from rfl]
  | cons c m ih =>
    obtain ⟨a, v⟩ := c
    unfold write
    split
    · split
      · rfl
      · simp [read, hij]
    · split
      · subst_vars
        split <;> simp [read, hij]
      · simp only [read, ih]

theorem below_cons (a : Nat) (v : Byte) (m : Memory) (n : Nat) :
    Memory.below ((a, v) :: m) n = if a < n then (a, v) :: m.below n else m.below n := by
  unfold Memory.below
  by_cases h : a < n <;> simp [h]

/-- `below` keeps the entries below its bound and no other. -/
theorem read_below (m : Memory) (n i : Nat) : (m.below n).read i = if i < n then m.read i else 0 := by
  induction m with
  | nil => simp [Memory.below]
  | cons c m ih =>
    obtain ⟨a, v⟩ := c
    rw [below_cons]
    by_cases ha : a < n
    · simp only [ha, if_true, read, ih]
      by_cases hi : i = a
      · simp [hi, ha]
      · simp [hi]
    · simp only [ha, if_false, read, ih]
      by_cases hi : i = a
      · simp [hi, ha]
      · simp [hi]

theorem wfFrom_below {lo : Nat} {m : Memory} (h : wfFrom lo m = true) (n : Nat) : wfFrom lo (m.below n) = true := by
  induction m generalizing lo with
  | nil => rfl
  | cons c m ih =>
    obtain ⟨a, v⟩ := c
    rw [wfFrom_cons] at h
    rw [below_cons]
    split
    · exact wfFrom_cons.mpr ⟨h.1, h.2.1, ih h.2.2⟩
    · exact wfFrom_mono (by omega) (ih h.2.2)

/-- `below` keeps the canonical form. -/
theorem wf_below {m : Memory} (h : m.wf = true) (n : Nat) : (m.below n).wf = true := wfFrom_below h n

/-- `below` lists only entries below its bound. -/
theorem within_below (m : Memory) {n k : Nat} (hnk : n ≤ k) : (m.below n).within k = true := by
  unfold Memory.within Memory.below
  rw [List.all_eq_true]
  intro c hc
  have := (List.mem_filter.mp hc).2
  simp only [decide_eq_true_eq] at this ⊢
  omega

theorem within_cons {a : Nat} {v : Byte} {m : Memory} {n : Nat} :
    Memory.within ((a, v) :: m) n = true ↔ a < n ∧ Memory.within m n = true := by
  simp [Memory.within]

/-- A write inside the array lists nothing outside it. -/
theorem within_write {m : Memory} {n : Nat} (h : m.within n = true) {i : Nat} (hi : i < n) (x : Byte) :
    (m.write i x).within n = true := by
  induction m with
  | nil => by_cases hx : x = unlisted <;> simp [write, hx, Memory.within, hi]
  | cons c m ih =>
    obtain ⟨a, v⟩ := c
    have h' := within_cons.mp h
    unfold write
    split
    · split
      · exact h
      · exact within_cons.mpr ⟨hi, h⟩
    · split
      · split
        · exact h'.2
        · exact within_cons.mpr ⟨hi, h'.2⟩
      · exact within_cons.mpr ⟨h'.1, ih h'.2⟩

@[simp] theorem bytes_zero (m : Memory) : m.bytes 0 = [] := rfl

@[simp] theorem length_bytes (m : Memory) (n : Nat) : (m.bytes n).length = n := by simp [Memory.bytes]

theorem bytes_succ (m : Memory) (n : Nat) : m.bytes (n + 1) = m.bytes n ++ [m.read n] := by
  simp [Memory.bytes, List.range_succ]

/-- Two arrays that read alike below `n` hold the same first `n` bytes. -/
theorem bytes_congr {m m' : Memory} {n : Nat} (h : ∀ i < n, m.read i = m'.read i) : m.bytes n = m'.bytes n := by
  unfold Memory.bytes
  exact List.map_congr_left fun i hi => h i (List.mem_range.mp hi)

/-- A write at the end of the first `n` bytes appends one byte. -/
theorem bytes_write_end {m : Memory} (h : m.wf = true) (n : Nat) (x : Byte) :
    (m.write n x).bytes (n + 1) = m.bytes n ++ [x] := by
  rw [bytes_succ, read_write_same h]
  congr 1
  exact bytes_congr fun i hi => read_write_other m (by omega) x

theorem bytes_below {m : Memory} {n k : Nat} (h : n ≤ k) : (m.below k).bytes n = m.bytes n :=
  bytes_congr fun i hi => by rw [read_below]; simp [Nat.lt_of_lt_of_le hi h]

end Memory

end Sys2Proof.Machine
end

