-- ==== Sys2Proof/Laws/PerInstr.lean ====
section
/-!
SUPPORT. Facts about every operation as syntax, one lemma per constructor: its word fits the match and mask that
the row of 30_encoding.md R80 gives it.
-/

namespace Sys2Proof.Laws.EncodeFitsRow

open OpWord

/-- Some row of the table carries the operation's code, and the operation's word fits that row's match and mask. -/
def Statement (i : Instr) : Prop :=
  ∃ r ∈ opTable, r.code = i.opCode ∧ encode i &&& r.mask = r.mat

theorem clr (v : Bool) (st : StateCode) (b : Byte) : Statement (.clr v st b) :=
  ⟨opTable[0], by simp [opTable, opTableControlSync], rfl, pack_and_1000 true v st b⟩

theorem ill (v : Bool) (b : Byte) : Statement (.ill v b) :=
  ⟨opTable[1], by simp [opTable, opTableControlSync], rfl, pack_and_1700 false v .unused7 b⟩

theorem nop (st : StateCode) (b : Byte) : Statement (.nop st b) :=
  ⟨opTable[2], by simp [opTable, opTableControlSync], rfl, pack_and_1800 false false st b⟩

theorem idleSync0 : Statement .idleSync0 :=
  ⟨opTable[3], by simp [opTable, opTableControlSync], rfl, rfl⟩

theorem idleSkip (b : Byte) : Statement (.idleSkip b) :=
  ⟨opTable[4], by simp [opTable, opTableControlSync], rfl, pack_and_1F00 false true .idle b⟩

theorem hdrSync1 : Statement .hdrSync1 :=
  ⟨opTable[5], by simp [opTable, opTableControlSync], rfl, rfl⟩

theorem hdrRej (b : Byte) : Statement (.hdrRej b) :=
  ⟨opTable[6], by simp [opTable, opTableControlSync], rfl, pack_and_1F00 false true .header b⟩

theorem dirReq (b : Byte) : Statement (.dirReq b) :=
  ⟨opTable[7], by simp [opTable, opTableControlSync, opTableFields], rfl, pack_and_1F00 false true .direction b⟩

theorem dirRsp (b : Byte) : Statement (.dirRsp b) :=
  ⟨opTable[8], by simp [opTable, opTableControlSync, opTableFields], rfl, pack_and_1F00 false true .direction b⟩

theorem dirRej (b : Byte) : Statement (.dirRej b) :=
  ⟨opTable[9], by simp [opTable, opTableControlSync, opTableFields], rfl, pack_and_1F00 false true .direction b⟩

theorem lenOk (b : Byte) : Statement (.lenOk b) :=
  ⟨opTable[10], by simp [opTable, opTableControlSync, opTableFields], rfl, pack_and_1F00 false true .length b⟩

theorem lenRej (b : Byte) : Statement (.lenRej b) :=
  ⟨opTable[11], by simp [opTable, opTableControlSync, opTableFields], rfl, pack_and_1F00 false true .length b⟩

theorem cmdPay (b : Byte) : Statement (.cmdPay b) :=
  ⟨opTable[12], by simp [opTable, opTableControlSync, opTableFields, opTableBody], rfl,
    pack_and_1F00 false true .command b⟩

theorem cmdEnd (b : Byte) : Statement (.cmdEnd b) :=
  ⟨opTable[13], by simp [opTable, opTableControlSync, opTableFields, opTableBody], rfl,
    pack_and_1F00 false true .command b⟩

theorem payMore (b : Byte) : Statement (.payMore b) :=
  ⟨opTable[14], by simp [opTable, opTableControlSync, opTableFields, opTableBody], rfl,
    pack_and_1F00 false true .payload b⟩

theorem payLast (b : Byte) : Statement (.payLast b) :=
  ⟨opTable[15], by simp [opTable, opTableControlSync, opTableFields, opTableBody], rfl,
    pack_and_1F00 false true .payload b⟩

theorem cksOk (b : Byte) : Statement (.cksOk b) :=
  ⟨opTable[16], by simp [opTable, opTableControlSync, opTableFields, opTableBody], rfl,
    pack_and_1F00 false true .checksum b⟩

theorem cksBad (b : Byte) : Statement (.cksBad b) :=
  ⟨opTable[17], by simp [opTable, opTableControlSync, opTableFields, opTableBody], rfl,
    pack_and_1F00 false true .checksum b⟩

end Sys2Proof.Laws.EncodeFitsRow
end

