-- ==== Sys2Proof/Tests/Slice0.lean ====
section
/-!
SUPPORT. The model's own tests, each on one step or one word, with expected results from spec/ (the table of
30_encoding.md R80 and the vectors of 95_test_vectors.md, computed there by hand); and, for every statement with
hypotheses, a concrete state that meets them.
-/

namespace Sys2Proof.Tests

open Sys2Proof Sys2Proof.Machine

/-! ### Helpers -/

/-- The next state of an outcome, if it is one. -/
def nextOf : Host.Outcome State Fault Refusal → Option State
  | .next t => some t
  | .fault _ => none
  | .refused _ => none

/-- `INIT` with one step input to come. -/
def at0 (st : StateCode) (inp : StepInput) : State := { State.reset with state := st, inputs := [inp] }

/-- A state in the middle of a frame, under `CFG0`, with one step input to come. -/
def mid (st : StateCode) (d : Dir) (len cmd cks idx : Byte) (buf : Memory) (inp : StepInput) : State :=
  { State.reset with
    state := st, dir := d, len := len, cmd := cmd, cks := cks, idx := idx, buf := buf, inputs := [inp] }

/-- `Payload Request 2 0x01 0xA9 [AA]` (vector V42-6). -/
def pay1 (inp : StepInput) : State := mid .payload .request 2 0x01 0xA9 1 [(0, 0xAA)] inp

/-- `Checksum Request 2 0x01 0x12 [AA, BB]` (vector V43-1). -/
def cks2 (inp : StepInput) : State := mid .checksum .request 2 0x01 0x12 2 [(0, 0xAA), (1, 0xBB)] inp

/-- `CFG0` with `LEN_LIMIT = 110` (vector V41-10). -/
def cfg110 : Cfg := { Config.cfg0 with lenLimit := 110 }

/-- What a one-step test looks at first: state, event, operation code. -/
def look (s : State) : Option (StateCode × Event × BitVec 5) :=
  (nextOf (step s)).map fun t => (t.state, t.evt, t.op)

/-- What a one-step test looks at in the parse registers: `dir`, then `len`, `cmd`, `cks`, `idx`, then `buf`. -/
structure Regs where
  dir   : Dir
  bytes : List Byte
  buf   : Memory
deriving DecidableEq

/-- The parse registers after one step. -/
def regs (s : State) : Option Regs :=
  (nextOf (step s)).map fun t => ⟨t.dir, [t.len, t.cmd, t.cks, t.idx], t.buf⟩

/-! ### WellFormed: each check refuses an ill-formed term (30_encoding.md R80, column guard) -/

theorem test_wf_refuses_nop_in_code7 : Instr.wf GuardCtx.atReset (.nop .unused7 0) = false := by decide
theorem test_wf_refuses_idleSkip_of_dollar : Instr.wf GuardCtx.atReset (.idleSkip 0x24) = false := by decide
theorem test_wf_refuses_hdrRej_of_C : Instr.wf GuardCtx.atReset (.hdrRej 0x43) = false := by decide
theorem test_wf_refuses_dirReq_of_other : Instr.wf GuardCtx.atReset (.dirReq 0x3E) = false := by decide
theorem test_wf_refuses_dirRsp_of_other : Instr.wf GuardCtx.atReset (.dirRsp 0x3C) = false := by decide
theorem test_wf_refuses_dirRej_of_request : Instr.wf GuardCtx.atReset (.dirRej 0x3C) = false := by decide
theorem test_wf_refuses_dirRej_of_response : Instr.wf GuardCtx.atReset (.dirRej 0x3E) = false := by decide
theorem test_wf_refuses_lenOk_over : Instr.wf GuardCtx.atReset (.lenOk 0x70) = false := by decide
theorem test_wf_refuses_lenRej_within : Instr.wf GuardCtx.atReset (.lenRej 0x6F) = false := by decide
theorem test_wf_refuses_cmdPay_without_payload : Instr.wf GuardCtx.atReset (.cmdPay 0) = false := by decide
theorem test_wf_refuses_cmdEnd_with_payload :
    Instr.wf { GuardCtx.atReset with len := 1 } (.cmdEnd 0) = false := by decide
theorem test_wf_refuses_payMore_at_last :
    Instr.wf { GuardCtx.atReset with len := 2, idx := 1 } (.payMore 0) = false := by decide
theorem test_wf_refuses_payLast_before_last :
    Instr.wf { GuardCtx.atReset with len := 2, idx := 0 } (.payLast 0) = false := by decide
theorem test_wf_refuses_cksOk_of_other : Instr.wf { GuardCtx.atReset with cks := 0x12 } (.cksOk 0x13) = false := by
  decide
theorem test_wf_refuses_cksBad_of_match : Instr.wf { GuardCtx.atReset with cks := 0x12 } (.cksBad 0x12) = false := by
  decide
theorem test_wf_cfg_refuses_equal_directions :
    Config.wf { dirRequest := 0x3C, dirResponse := 0x3C, lenLimit := 111 } = false := by decide

/-! ### Decoding: one word of each row of R80, written out as `clr vld state b` -/

theorem test_decode_clr : decode GuardCtx.atReset 0b1_1_101_00100100#13 = .clr true .payload 0x24 := by decide
theorem test_decode_ill : decode GuardCtx.atReset 0b0_1_111_00100100#13 = .ill true 0x24 := by decide
theorem test_decode_ill_before_nop : decode GuardCtx.atReset 0b0_0_111_00000000#13 = .ill false 0 := by decide
theorem test_decode_nop : decode GuardCtx.atReset 0b0_0_101_11111111#13 = .nop .payload 0xFF := by decide
theorem test_decode_idleSync0 : decode GuardCtx.atReset 0b0_1_000_00100100#13 = .idleSync0 := by decide
theorem test_decode_idleSkip : decode GuardCtx.atReset 0b0_1_000_01000011#13 = .idleSkip 0x43 := by decide
theorem test_decode_hdrSync1 : decode GuardCtx.atReset 0b0_1_001_01000011#13 = .hdrSync1 := by decide
theorem test_decode_hdrRej : decode GuardCtx.atReset 0b0_1_001_01100011#13 = .hdrRej 0x63 := by decide
theorem test_decode_dirReq : decode GuardCtx.atReset 0b0_1_010_00111100#13 = .dirReq 0x3C := by decide
theorem test_decode_dirRsp : decode GuardCtx.atReset 0b0_1_010_00111110#13 = .dirRsp 0x3E := by decide
theorem test_decode_dirRej : decode GuardCtx.atReset 0b0_1_010_00111101#13 = .dirRej 0x3D := by decide
theorem test_decode_lenOk : decode GuardCtx.atReset 0b0_1_011_01101111#13 = .lenOk 0x6F := by decide
theorem test_decode_lenRej : decode GuardCtx.atReset 0b0_1_011_01110000#13 = .lenRej 0x70 := by decide
theorem test_decode_lenRej_unsigned : decode GuardCtx.atReset 0b0_1_011_10000000#13 = .lenRej 0x80 := by decide
theorem test_decode_cmdPay :
    decode { GuardCtx.atReset with len := 2 } 0b0_1_100_00000001#13 = .cmdPay 0x01 := by decide
theorem test_decode_cmdEnd : decode GuardCtx.atReset 0b0_1_100_00000101#13 = .cmdEnd 0x05 := by decide
theorem test_decode_payMore :
    decode { GuardCtx.atReset with len := 2 } 0b0_1_101_10101010#13 = .payMore 0xAA := by decide
theorem test_decode_payLast :
    decode { GuardCtx.atReset with len := 2, idx := 1 } 0b0_1_101_10111011#13 = .payLast 0xBB := by decide
theorem test_decode_cksOk :
    decode { GuardCtx.atReset with cks := 0x12 } 0b0_1_110_00010010#13 = .cksOk 0x12 := by decide
theorem test_decode_cksBad :
    decode { GuardCtx.atReset with cks := 0x12 } 0b0_1_110_00010011#13 = .cksBad 0x13 := by decide

/-- With `idx + 1` taken without wrap-around (R80), `idx = 255` is never before the last byte. -/
theorem test_decode_guard_does_not_wrap :
    decode { GuardCtx.atReset with len := 255, idx := 255 } 0b0_1_101_00000000#13 = .payLast 0 := by decide

theorem test_encode_dirReq : encode (.dirReq 0x3C) = 0x0A3C#13 := by decide
theorem test_encode_hdrSync1 : encode .hdrSync1 = 0x0943#13 := by decide
theorem test_encode_clr : encode (.clr true .unused7 0xFF) = 0x1FFF#13 := by decide

/-! ### What the host asks (log 5) -/

theorem test_atReset_is_reset : GuardCtx.atReset = State.reset.guardCtx := by decide
theorem test_tableWord_hdrSync1 : decodeTableWord 16 0x0943 = some .hdrSync1 := by decide
theorem test_tableWord_lenRej : decodeTableWord 16 0x0B70 = some (.lenRej 0x70) := by decide
theorem test_tableWord_beyond_13_bits : decodeTableWord 16 0x2000 = none := by decide
theorem test_fetchWord_runs_hdrSync1 :
    look (State.reset.withFetchWord 16 0x0943) = some (.direction, .evNone, 5) := by decide
theorem test_fetchWord_runs_ill : look (State.reset.withFetchWord 16 0x0724) = some (.idle, .evNone, 2) := by decide

/-! ### One step each (95_test_vectors.md) -/

/-- V40-1. -/
theorem test_step_idleSync0 : look (at0 .idle (byteIn 0x24)) = some (.header, .evNone, 3) := by decide
/-- V40-5. -/
theorem test_step_idleSkip : look (at0 .idle (byteIn 0x25)) = some (.idle, .evNone, 4) := by decide
/-- V40-6. -/
theorem test_step_hdrSync1 : look (at0 .header (byteIn 0x43)) = some (.direction, .evNone, 5) := by decide
/-- V40-7: the `24` is consumed. -/
theorem test_step_hdrRej : look (at0 .header (byteIn 0x24)) = some (.idle, .evNone, 6) := by decide
/-- V41-1. -/
theorem test_step_dirReq : look (at0 .direction (byteIn 0x3C)) = some (.length, .evNone, 7) := by decide
/-- V41-2. -/
theorem test_step_dirRsp : look (at0 .direction (byteIn 0x3E)) = some (.length, .evNone, 8) := by decide
/-- V41-2: `dir = 1`. -/
theorem test_step_dirRsp_dir :
    (nextOf (step (at0 .direction (byteIn 0x3E)))).map State.dir = some .response := by decide
/-- V41-3. -/
theorem test_step_dirRej : look (at0 .direction (byteIn 0x3D)) = some (.idle, .evNone, 9) := by decide
/-- V41-9. -/
theorem test_step_lenOk : look (at0 .length (byteIn 0x6F)) = some (.command, .evNone, 10) := by decide
/-- V41-7, from registers that hold an earlier frame. -/
theorem test_step_lenOk_regs :
    regs (mid .length .request 9 0x55 0x77 9 [(0, 0xAA)] (byteIn 0x02))
      = some ⟨.request, [2, 0x55, 0x02, 0], [(0, 0xAA)]⟩ := by decide
/-- V41-11. -/
theorem test_step_lenRej : look (at0 .length (byteIn 0x70)) = some (.idle, .evNone, 11) := by decide
/-- V41-10. -/
theorem test_step_lenRej_limit110 :
    look { at0 .length (byteIn 0x6F) with cfg := cfg110 } = some (.idle, .evNone, 11) := by decide
/-- V42-1. -/
theorem test_step_cmdPay :
    look (mid .command .request 2 0 0x02 0 [] (byteIn 0x01)) = some (.payload, .evNone, 12) := by decide
/-- V42-1. -/
theorem test_step_cmdPay_regs :
    regs (mid .command .request 2 0 0x02 0 [] (byteIn 0x01)) = some ⟨.request, [2, 0x01, 0x03, 0], []⟩ := by decide
/-- V42-2. -/
theorem test_step_cmdEnd :
    look (mid .command .response 0 0 0x00 0 [] (byteIn 0x05)) = some (.checksum, .evNone, 13) := by decide
/-- V42-2. -/
theorem test_step_cmdEnd_regs :
    regs (mid .command .response 0 0 0x00 0 [] (byteIn 0x05)) = some ⟨.response, [0, 0x05, 0x05, 0], []⟩ := by decide
/-- V42-5. -/
theorem test_step_payMore :
    look (mid .payload .request 2 0x01 0x03 0 [] (byteIn 0xAA)) = some (.payload, .evNone, 14) := by decide
/-- V42-9: a sync byte inside a payload is data. -/
theorem test_step_payMore_regs :
    regs (mid .payload .response 3 0x24 0x03 1 [(0, 0x24)] (byteIn 0x43))
      = some ⟨.response, [3, 0x24, 0x40, 2], [(0, 0x24), (1, 0x43)]⟩ := by decide
/-- V42-6. -/
theorem test_step_payLast : look (pay1 (byteIn 0xBB)) = some (.checksum, .evNone, 15) := by decide
/-- V42-6. -/
theorem test_step_payLast_regs :
    regs (pay1 (byteIn 0xBB)) = some ⟨.request, [2, 0x01, 0x12, 2], [(0, 0xAA), (1, 0xBB)]⟩ := by decide
/-- V43-1. -/
theorem test_step_cksOk : look (cks2 (byteIn 0x12)) = some (.idle, .evMsg, 16) := by decide
/-- V43-1. -/
theorem test_step_cksOk_out :
    (nextOf (step (cks2 (byteIn 0x12)))).map State.out
      = some (some ⟨.request, 2, 0x01, [0xAA, 0xBB], 0x12⟩) := by decide
/-- V43-2. -/
theorem test_step_cksBad : look (cks2 (byteIn 0x13)) = some (.idle, .evCksumErr, 17) := by decide
/-- V43-2: `out` unchanged. -/
theorem test_step_cksBad_out : (nextOf (step (cks2 (byteIn 0x13)))).map State.out = some none := by decide
/-- V44-1. -/
theorem test_step_nop : look (pay1 (idleIn 0xBB)) = some (.payload, .evNone, 0) := by decide
/-- V44-1: unchanged. -/
theorem test_step_nop_regs :
    regs (pay1 (idleIn 0xBB)) = some ⟨.request, [2, 0x01, 0xA9, 1], [(0, 0xAA)]⟩ := by decide
/-- V44-3: a clear with the checksum byte wins. -/
theorem test_step_clr : look (cks2 (clrIn 0x12)) = some (.idle, .evNone, 1) := by decide
/-- V44-5. -/
theorem test_step_ill : look (at0 .unused7 (byteIn 0x24)) = some (.idle, .evNone, 2) := by decide
/-- V44-7, from the middle of a frame. -/
theorem test_step_rst : look (cks2 ⟨true, true, true, 0x24⟩) = some (.idle, .evNone, 0) := by decide
/-- V44-7: every register at its reset value. -/
theorem test_step_rst_regs :
    regs (cks2 ⟨true, true, true, 0x24⟩) = some ⟨.request, [0, 0, 0, 0], []⟩ := by decide
/-- V44-8 and V44-10. -/
theorem test_read_port :
    (nextOf (step (cks2 (byteIn 0x12)))).map
        (fun t => (t.rdData 0, t.rdData 1, t.rdData 111, t.rdData 255))
      = some (0xAA, 0xBB, 0, 0) := by decide
/-- V44-11. -/
theorem test_read_port_before_a_message : State.reset.rdData 0 = 0 := by decide
/-- E1: the checksum of the source's example frame. -/
theorem test_cksum_example : cksum 2 0x01 [0xAA, 0xBB] = 0x12 := by decide
/-- E1: the source's example frame under `CFG0`. -/
theorem test_frame_example :
    frame Config.cfg0 .request 0x01 [0xAA, 0xBB] = [0x24, 0x43, 0x3C, 0x02, 0x01, 0xAA, 0xBB, 0x12] := by decide

/-! ### Witnesses: for every statement with hypotheses, a state that meets them -/

/-- A latched message: the state after V43-1, with one step input to come. -/
def latched (inp : StepInput) : State :=
  { State.reset with
    len := 2, cmd := 0x01, cks := 0x12, idx := 2, buf := [(0, 0xAA), (1, 0xBB)]
    outVld := true, outLen := 2, outCmd := 0x01, outCks := 0x12, obuf := [(0, 0xAA), (1, 0xBB)]
    evt := .evMsg, op := 16, inputs := [inp] }

/-- `INIT` with step inputs to come. -/
def fed (inputs : List StepInput) : State := { State.reset with inputs := inputs }

theorem next_of_isSome {s : State} (h : (nextOf (step s)).isSome = true) : ∃ t, step s = .next t := by
  revert h
  cases step s <;> simp [nextOf]

theorem next_of_eq {s t : State} (h : nextOf (step s) = some t) : step s = .next t := by
  revert h
  cases step s <;> simp [nextOf]

/-- The invariant does not read the edges to come. -/
theorem inv_with_inputs {s : State} (h : s.Inv) (l : List StepInput) : State.Inv { s with inputs := l } :=
  ⟨h.cfg, h.storage, h.parse, h.out, h.codes⟩

theorem witness_inv_reset : State.reset.Inv :=
  ⟨by decide, ⟨by decide, by decide, by decide, by decide⟩, trivial, by unfold State.OutOk; decide,
    by unfold State.CodesOk; decide⟩

theorem witness_inv_cmd0 : (mid .command .response 0 0 0 0 [] (byteIn 0x05)).Inv :=
  ⟨by decide, ⟨by decide, by decide, by decide, by decide⟩, ⟨by decide, by decide, by decide⟩,
    by unfold State.OutOk; decide, by unfold State.CodesOk; decide⟩

theorem witness_inv_pay1 : (pay1 (byteIn 0xBB)).Inv :=
  ⟨by decide, ⟨by decide, by decide, by decide, by decide⟩, ⟨by decide, by decide, by decide, by decide⟩,
    by unfold State.OutOk; decide, by unfold State.CodesOk; decide⟩

theorem witness_inv_cks2 : (cks2 (byteIn 0x12)).Inv :=
  ⟨by decide, ⟨by decide, by decide, by decide, by decide⟩, ⟨by decide, by decide, by decide⟩,
    by unfold State.OutOk; decide, by unfold State.CodesOk; decide⟩

theorem witness_inv_latched : (latched (byteIn 0x24)).Inv :=
  ⟨by decide, ⟨by decide, by decide, by decide, by decide⟩, trivial, by unfold State.OutOk; decide,
    by unfold State.CodesOk; decide⟩

theorem witness_DirRsp : Config.wf (at0 .direction (byteIn 0x3E)).cfg = true ∧
    (at0 .direction (byteIn 0x3E)).operation (byteIn 0x3E) = .dirRsp 0x3E := by decide

theorem witness_CmdEnd_inv : ∃ s : State, s.Inv ∧ s.state = .command ∧ s.len = 0 :=
  ⟨_, witness_inv_cmd0, by decide, by decide⟩

theorem witness_PayMore : ∃ s : State, s.idx.toNat + 1 < s.len.toNat ∧ s.buf.wf = true ∧
    s.idx.toNat < Config.bufDepth s.cfg ∧ (5 : Nat) ≠ s.idx.toNat :=
  ⟨mid .payload .request 111 0 0 109 [] (byteIn 0), by decide, by decide, by decide, by decide⟩

theorem witness_PayLast_inv : ∃ s : State, s.Inv ∧ s.state = .payload ∧ s.len.toNat ≤ s.idx.toNat + 1 :=
  ⟨_, witness_inv_pay1, by decide, by decide⟩

theorem witness_PayLast : ∃ s : State, s.idx.toNat + 1 = s.len.toNat ∧ s.buf.wf = true ∧
    s.idx.toNat < Config.bufDepth s.cfg ∧ (0 : Nat) ≠ s.idx.toNat :=
  ⟨mid .payload .request 111 0 0 110 [] (byteIn 0), by decide, by decide, by decide, by decide⟩

theorem witness_PayloadByteBeyond : ∃ s : State, Config.bufDepth s.cfg ≤ s.idx.toNat :=
  ⟨mid .payload .request 2 0 0 111 [] (byteIn 0), by decide⟩

theorem witness_CksOk : ∃ s : State, s.len.toNat ≤ Config.bufDepth s.cfg ∧ 110 < s.len.toNat ∧
    110 < Config.bufDepth s.cfg :=
  ⟨mid .checksum .request 111 0 0 111 [] (byteIn 0), by decide, by decide, by decide⟩

theorem witness_Ill_inv : ∃ s : State, s.Inv := ⟨_, witness_inv_reset⟩

theorem witness_StepRuns : ∃ (s : State) (i : Instr), Config.wf s.cfg = true ∧ s.nextInput.rst = false ∧
    i.wf s.guardCtx = true ∧ encode i = s.opWord s.nextInput :=
  ⟨pay1 (byteIn 0xBB), .payLast 0xBB, by decide, by decide, by decide, by decide⟩

theorem witness_RstEdge : ∃ s : State, Config.wf s.cfg = true ∧ s.nextInput.rst = true :=
  ⟨cks2 ⟨true, true, true, 0x12⟩, by decide, by decide⟩

theorem witness_EveryEdgeCompletes : ∃ s : State, s.cfg.dirRequest ≠ s.cfg.dirResponse :=
  ⟨State.reset, by decide⟩

/-- For every statement whose hypothesis is a step that answers a next state (O24, O27, O29, O39, O40). -/
theorem witness_step_next : ∃ s t : State, s.Inv ∧ s.StorageOk ∧ step s = .next t := by
  obtain ⟨t, h⟩ := next_of_isSome (s := pay1 (byteIn 0xBB)) (by decide)
  exact ⟨_, t, witness_inv_pay1, witness_inv_pay1.storage, h⟩

theorem witness_Priority_clr : ∃ s : State, Config.wf s.cfg = true ∧ s.nextInput.rst = false ∧
    s.nextInput.clr = true := ⟨cks2 (clrIn 0x12), by decide, by decide, by decide⟩

theorem witness_Priority_ill : ∃ s : State, Config.wf s.cfg = true ∧ s.nextInput.rst = false ∧
    s.nextInput.clr = false ∧ s.state = .unused7 :=
  ⟨at0 .unused7 (byteIn 0x24), by decide, by decide, by decide, by decide⟩

theorem witness_Priority_byte : ∃ s : State, Config.wf s.cfg = true ∧ s.nextInput.rst = false ∧
    s.nextInput.clr = false ∧ s.state ≠ .unused7 ∧ s.nextInput.vld = true :=
  ⟨cks2 (byteIn 0x12), by decide, by decide, by decide, by decide, by decide⟩

theorem witness_Priority_nop : ∃ s : State, Config.wf s.cfg = true ∧ s.nextInput.rst = false ∧
    s.nextInput.clr = false ∧ s.state ≠ .unused7 ∧ s.nextInput.vld = false :=
  ⟨cks2 (idleIn 0), by decide, by decide, by decide, by decide, by decide⟩

/-- The direction rows share a match and mask; a word that fits them, and the row that takes it. -/
theorem witness_FirstFittingRow : ∃ r₁ ∈ opTable, ∃ r₂ ∈ opTable, r₁.mat = r₂.mat ∧ r₁.mask = r₂.mask ∧
    r₁.code ≠ r₂.code ∧ (0x0A3C : OpWord) &&& r₁.mask = r₁.mat ∧ r₁.takes GuardCtx.atReset 0x0A3C = true := by
  refine ⟨opTableFields[0], ?_, opTableFields[1], ?_, rfl, rfl, by decide, by decide, by decide⟩ <;>
    simp [opTable, opTableFields]

/-- V43-1 as one whole step. -/
theorem step_latches : step { cks2 (byteIn 0x12) with inputs := [byteIn 0x12, byteIn 0x24] }
    = .next { latched (byteIn 0x24) with draws := 1 } := next_of_eq (by decide)

/-- An edge that leaves an event, and the edge after it. -/
theorem witness_Events : ∃ s t u : State, step s = .next t ∧ t.evt ≠ .evNone ∧ step t = .next u := by
  obtain ⟨u, h⟩ := next_of_isSome (s := { latched (byteIn 0x24) with draws := 1 }) (by decide)
  exact ⟨_, _, u, step_latches, by decide, h⟩

theorem witness_Reserved : ∃ s : State, Config.wf s.cfg = true ∧ s.state = .unused7 ∧ s.nextInput.clr = false :=
  ⟨at0 .unused7 (idleIn 0), by decide, by decide, by decide⟩

theorem witness_Outputs_kept : ∃ s t : State, step s = .next t ∧ s.nextInput.rst = false ∧
    ∀ b, s.operation s.nextInput ≠ .cksOk b := by
  obtain ⟨t, h⟩ := next_of_isSome (s := latched (byteIn 0x24)) (by decide)
  refine ⟨_, t, h, by decide, fun b => ?_⟩
  rw [show (latched (byteIn 0x24)).operation (latched (byteIn 0x24)).nextInput = .idleSync0 by decide]
  exact nofun

theorem witness_Outputs_latch : ∃ s t : State, ∃ b : Byte, step s = .next t ∧ s.nextInput.rst = false ∧
    s.operation s.nextInput = .cksOk b ∧ 1 < s.len.toNat ∧ 1 < Config.bufDepth s.cfg :=
  ⟨_, _, 0x12, step_latches, by decide, by decide, by decide, by decide⟩

theorem witness_Outputs_reset : ∃ s t : State, step s = .next t ∧ s.nextInput.rst = true := by
  obtain ⟨t, h⟩ := next_of_isSome (s := cks2 ⟨true, true, true, 0x12⟩) (by decide)
  exact ⟨_, t, h, by decide⟩

/-- One state for each way to recover, and for each the hypotheses of the statement. -/
theorem witness_Recovery :
    (cks2 (clrIn 0x12)).operation (clrIn 0x12) = .clr true .checksum 0x12 ∧
    (at0 .unused7 (byteIn 0x24)).operation (byteIn 0x24) = .ill true 0x24 ∧
    (at0 .header (byteIn 0x24)).operation (byteIn 0x24) = .hdrRej 0x24 ∧
    (at0 .direction (byteIn 0x3D)).operation (byteIn 0x3D) = .dirRej 0x3D ∧
    (at0 .length (byteIn 0x70)).operation (byteIn 0x70) = .lenRej 0x70 ∧
    (cks2 (byteIn 0x12)).operation (byteIn 0x12) = .cksOk 0x12 ∧
    (cks2 (byteIn 0x13)).operation (byteIn 0x13) = .cksBad 0x13 ∧
    ∀ st inp, Config.wf (at0 st inp).cfg = true ∧ (at0 st inp).nextInput = inp :=
  ⟨by decide, by decide, by decide, by decide, by decide, by decide, by decide, fun _ _ => ⟨rfl, rfl⟩⟩

theorem witness_WordsOfTable : ∃ g : GuardCtx, g.cfg.dirRequest = 0x3C ∧ g.cfg.lenLimit = 111 ∧ g.len = 2 ∧
    g.idx = 0 ∧ g.cks = 0x12 :=
  ⟨{ GuardCtx.atReset with len := 2, cks := 0x12 }, by decide, by decide, by decide, by decide, by decide⟩

theorem witness_DecodeOfEncode : ∃ (g : GuardCtx) (i : Instr), Config.wf g.cfg = true ∧ i.wf g = true :=
  ⟨GuardCtx.atReset, .dirReq 0x3C, by decide, by decide⟩

/-- The four arms of the read port, at the boundaries 1 and 2 of `out_len` and 110 and 111 of `BUF_DEPTH`. -/
theorem witness_ReadPortArms :
    Config.bufDepth State.reset.cfg ≤ (111 : Byte).toNat ∧ State.reset.outVld = false ∧
    ((latched (byteIn 0)).outVld = true ∧ (1 : Byte).toNat < Config.bufDepth (latched (byteIn 0)).cfg ∧
      (1 : Byte).toNat < (latched (byteIn 0)).outLen.toNat) ∧
    (2 : Byte).toNat < Config.bufDepth (latched (byteIn 0)).cfg ∧
    (110 : Byte).toNat < Config.bufDepth (latched (byteIn 0)).cfg ∧
    (latched (byteIn 0)).outLen.toNat ≤ (2 : Byte).toNat := by decide

theorem witness_ReadPortShows : ∃ s : State, s.Inv ∧ s.nextInput.rst = false ∧
    s.operation s.nextInput = .cksOk 0x12 ∧ (1 : Byte).toNat < s.len.toNat ∧
    Config.bufDepth s.cfg ≤ (111 : Byte).toNat :=
  ⟨_, witness_inv_cks2, by decide, by decide, by decide, by decide⟩

theorem witness_ReadPortIsStable : ∃ s t : State, step s = .next t ∧ s.nextInput.rst = false ∧
    (∀ b, s.operation s.nextInput ≠ .cksOk b) ∧ s.RdSpecified 1 ∧ s.RdSpecified 111 := by
  obtain ⟨t, h⟩ := next_of_isSome (s := latched (byteIn 0x24)) (by decide)
  refine ⟨_, t, h, by decide, fun b => ?_, .inr (.inl (by decide)), .inr (.inr (by decide))⟩
  rw [show (latched (byteIn 0x24)).operation (latched (byteIn 0x24)).nextInput = .idleSync0 by decide]
  exact nofun

theorem witness_InvariantAtInit : Config.wf cfg110 = true := by decide

theorem witness_StepRefines : ∃ (s : State) (a : AbsState), s.Inv ∧ s.abs = some a :=
  ⟨_, ⟨.payload .request 2 0x01 0xA9 [0xAA], none, .evNone, 0⟩, witness_inv_pay1, by decide⟩

/-- Two different states with one abstract state: `cks` is not live in Idle. -/
theorem witness_RegistersNotLive : ∃ s₁ s₂ : State, s₁ ≠ s₂ ∧ s₁.Inv ∧ s₂.Inv ∧ s₁.abs = s₂.abs ∧
    s₁.cfg = s₂.cfg ∧ s₁.inputs = s₂.inputs ∧ s₁.draws = s₂.draws :=
  ⟨State.reset, { State.reset with cks := 5 }, by decide, witness_inv_reset,
    ⟨by decide, witness_inv_reset.storage, trivial, witness_inv_reset.out, witness_inv_reset.codes⟩,
    by decide, by decide, by decide, by decide⟩

/-- The source's example frame with one pause after the length byte. -/
theorem witness_FrameRoundTrip : ∃ (s : State) (pre rest : List StepInput),
    s.Inv ∧ s.state = .idle ∧ [(0xAA : Byte), 0xBB].length ≤ s.cfg.lenLimit.toNat ∧
    (∀ inp ∈ pre, inp.rst = false ∧ inp.clr = false) ∧
    pre.filterMap presentedByte = (frame s.cfg .request 0x01 [0xAA, 0xBB]).dropLast ∧
    s.inputs = pre ++ byteIn (cksum (BitVec.ofNat 8 [(0xAA : Byte), 0xBB].length) 0x01 [0xAA, 0xBB]) :: rest :=
  ⟨fed (byteStream [0x24, 0x43, 0x3C, 0x02] ++ idleIn 0x7F :: byteStream [0x01, 0xAA, 0xBB, 0x12]),
    byteStream [0x24, 0x43, 0x3C, 0x02] ++ idleIn 0x7F :: byteStream [0x01, 0xAA, 0xBB], [],
    inv_with_inputs witness_inv_reset _, by decide, by decide, by decide, by decide, by decide⟩

theorem witness_BackToBack : ∃ s : State, s.Inv ∧ s.state = .idle ∧
    ([] : List Byte).length ≤ s.cfg.lenLimit.toNat ∧ [(0x10 : Byte)].length ≤ s.cfg.lenLimit.toNat ∧
    s.inputs = byteStream (frame s.cfg .response 0x05 [] ++ frame s.cfg .request 0x07 [0x10]) ++ [] :=
  ⟨fed (byteStream [0x24, 0x43, 0x3E, 0x00, 0x05, 0x05, 0x24, 0x43, 0x3C, 0x01, 0x07, 0x10, 0x16]),
    inv_with_inputs witness_inv_reset _, by decide, by decide, by decide, by decide⟩

/-- V43-7, the command byte, and the checksum byte, the last of the frame. -/
theorem witness_OneWrongByte : ∃ s : State, s.Inv ∧ s.state = .idle ∧
    [(0xAA : Byte), 0xBB].length ≤ s.cfg.lenLimit.toNat ∧
    (frame s.cfg .request 0x01 [0xAA, 0xBB])[4]? = some 0x01 ∧ (0x81 : Byte) ≠ 0x01 ∧
    (frame s.cfg .request 0x01 [0xAA, 0xBB])[7]? = some 0x12 ∧
    s.inputs = byteStream ((frame s.cfg .request 0x01 [0xAA, 0xBB]).set 4 0x81) ++ [] :=
  ⟨fed (byteStream [0x24, 0x43, 0x3C, 0x02, 0x81, 0xAA, 0xBB, 0x12]), inv_with_inputs witness_inv_reset _,
    by decide, by decide, by decide, by decide, by decide, by decide⟩

/-- The noise and the first frame of program P2. -/
theorem witness_Noise : ∃ s : State, s.Inv ∧ s.state = .idle ∧ (0x24 : Byte) ∉ [(0x00 : Byte), 0x43, 0xFF] ∧
    ([] : List Byte).length ≤ s.cfg.lenLimit.toNat ∧
    s.inputs = byteStream ([0x00, 0x43, 0xFF] ++ frame s.cfg .response 0x05 []) ++ [] :=
  ⟨fed (byteStream [0x00, 0x43, 0xFF, 0x24, 0x43, 0x3E, 0x00, 0x05, 0x05]), inv_with_inputs witness_inv_reset _,
    by decide, by decide, by decide, by decide⟩

/-- Both events: V43-1 and V43-2. -/
theorem witness_SixByteSteps_event : ∃ s t s' t' : State,
    step s = .next t ∧ t.evt = .evMsg ∧ step s' = .next t' ∧ t'.evt = .evCksumErr := by
  obtain ⟨t', h⟩ := next_of_isSome (s := cks2 (byteIn 0x13)) (by decide)
  refine ⟨_, _, _, t', step_latches, by decide, h, ?_⟩
  have e : (nextOf (step (cks2 (byteIn 0x13)))).map State.evt = some .evCksumErr := by decide
  rw [h] at e
  exact Option.some.inj e

/-- Five bytes of a frame and a pause: the last count that leaves no event. -/
theorem witness_SixByteSteps : ∃ (s : State) (k : Nat), Config.wf s.cfg = true ∧ s.state = .idle ∧ 1 ≤ k ∧
    k ≤ s.inputs.length ∧ (s.inputs.take k).countP takesByte < 6 ∧ 5 ≤ (s.inputs.take k).countP takesByte ∧
    (∀ inp ∈ s.inputs.take k, inp.rst = false) :=
  ⟨fed (byteStream [0x24, 0x43, 0x3E, 0x00, 0x05] ++ [idleIn 0]), 6, by decide, by decide, by decide, by decide,
    by decide, by decide, by decide⟩

theorem witness_Pauses : ∃ (s : State) (n : Nat), Config.wf s.cfg = true ∧ s.state ≠ .unused7 ∧ 1 ≤ n ∧
    n ≤ s.inputs.length ∧ (∀ inp ∈ s.inputs.take n, inp.rst = false ∧ inp.clr = false ∧ inp.vld = false) :=
  ⟨{ pay1 (idleIn 0) with inputs := [idleIn 0, idleIn 0xFF, byteIn 0xBB] }, 2, by decide, by decide, by decide,
    by decide, by decide⟩

end Sys2Proof.Tests
end

section
/-!
PROOFS. The output registers (10_state.md R33): which operation writes them, and what an edge does to them.
-/

namespace Sys2Proof.Machine

/-- Using up the edge's input touches no output register. -/
@[simp] theorem keepsOutputs_takeInput {s t : State} : KeepsOutputs s.takeInput t ↔ KeepsOutputs s t := Iff.rfl

/-- No operation but CKS_OK writes an output register (10_state.md R33). -/
theorem exec_keepsOutputs {i : Instr} {s t : State} (hi : ∀ b, i ≠ .cksOk b) (h : exec i s = .next t) :
    KeepsOutputs s t := by
  cases i with
  | cksOk b => exact absurd rfl (hi b)
  | _ => cases h; simp [KeepsOutputs]

/-- A byte of the buffer below both `len` and `BUF_DEPTH` is latched (43_checksum.md R160). -/
theorem latchOut_obuf_read (s : State) (b : Byte) {i : Nat} (hlen : i < s.len.toNat)
    (hdepth : i < Config.bufDepth s.cfg) : (s.latchOut b).obuf.read i = s.buf.read i := by
  rw [latchOut_obuf, Memory.read_below, if_pos (lt_min hlen hdepth)]

/-- CKS_OK writes every output register from the parse registers and the byte (43_checksum.md R160). -/
theorem exec_cksOk_writes_outputs {b : Byte} {s t : State} (h : exec (.cksOk b) s = .next t) :
    t.outVld = true ∧ t.outDir = s.dir ∧ t.outLen = s.len ∧ t.outCmd = s.cmd ∧ t.outCks = b ∧
      ∀ i : Nat, i < s.len.toNat → i < Config.bufDepth s.cfg → t.obuf.read i = s.buf.read i := by
  cases h
  exact ⟨rfl, rfl, rfl, rfl, rfl, fun _ hlen hdepth => latchOut_obuf_read s b hlen hdepth⟩

/-- Settles O29: an edge is either a reset or one operation, and CKS_OK is the only operation that writes an
output register. -/
theorem outputsChangeOnlyAtLatchOrReset : Obligations.OutputsChangeOnlyAtLatchOrReset := by
  intro s t h
  obtain ⟨-, ⟨hrst, rfl⟩ | ⟨hrst, hexec⟩⟩ := step_next_iff.mp h
  · simp [hrst, enterInit_eq, State.init]
  · refine ⟨fun _ hop => ?_, fun _ b hop => ?_, fun hrst' => by simp [hrst] at hrst'⟩
    · exact keepsOutputs_takeInput.mp (exec_keepsOutputs hop hexec)
    · rw [hop] at hexec
      simpa using exec_cksOk_writes_outputs hexec

end Sys2Proof.Machine
end

section
/-!
PROOFS. The reserved codes (30_encoding.md R83): what an edge leaves in `state`, `evt` and `op`, whatever it finds.
-/

namespace Sys2Proof.Machine

/-- An edge of a well-formed configuration answers a next state. -/
theorem step_completes {s : State} (hwf : Config.wf s.cfg = true) : ∃ t, step s = .next t := by
  cases hrst : s.nextInput.rst with
  | true => exact ⟨_, step_next_iff.mpr ⟨hwf, .inl ⟨hrst, rfl⟩⟩⟩
  | false =>
    obtain ⟨t, ht⟩ := exec_completes (s.operation s.nextInput) s.takeInput
    exact ⟨t, step_next_iff.mpr ⟨hwf, .inr ⟨hrst, ht⟩⟩⟩

/-- The table has 18 operations, with the codes 0 to 17. -/
theorem opCode_lt (i : Instr) : i.opCode.toNat < 18 := by
  cases i <;> simp [Instr.opCode]

/-- No operation leaves the reserved event or an operation code from 18 on. -/
theorem exec_codesOk {i : Instr} {s t : State} (h : exec i s = .next t) : t.CodesOk := by
  refine ⟨?_, exec_op h ▸ opCode_lt i⟩
  cases i <;> (cases h; exact nofun)

/-- Only NOP can leave state code 7, and only where it finds it: every other operation goes to a named state. -/
theorem exec_state_ne_unused7 {i : Instr} {s t : State} (hi : ∀ st b, i = .nop st b → s.state ≠ .unused7)
    (h : exec i s = .next t) : t.state ≠ .unused7 := by
  cases i with
  | nop st b => cases h; exact hi st b rfl
  | _ => cases h; exact nofun

/-- In state code 7 an edge without `clr` is ILL, with a byte or without (44_control.md R183). -/
theorem operation_eq_ill {s : State} {inp : StepInput} (h7 : s.state = .unused7) (hclr : inp.clr = false) :
    s.operation inp = .ill inp.vld inp.b := by
  simp [operation_eq, h7, hclr]

/-- NOP is not taken in state code 7: CLR and ILL come first. -/
theorem state_ne_unused7_of_operation_nop {s : State} {inp : StepInput} {st : StateCode} {b : Byte}
    (h : s.operation inp = .nop st b) : s.state ≠ .unused7 := by
  intro h7
  cases hclr : inp.clr with
  | true => simp [operation_eq, hclr] at h
  | false => simp [operation_eq_ill h7 hclr] at h

/-- An edge ends in a state other than code 7 and leaves no reserved code. -/
theorem step_avoids_reserved {s t : State} (h : step s = .next t) : t.state ≠ .unused7 ∧ t.CodesOk := by
  obtain ⟨-, ⟨-, rfl⟩ | ⟨-, hexec⟩⟩ := step_next_iff.mp h
  · simp [enterInit_eq, State.init, State.CodesOk]
  · have hnop : ∀ st b, s.operation s.nextInput = .nop st b → s.state ≠ .unused7 :=
      fun _ _ => state_ne_unused7_of_operation_nop
    exact ⟨exec_state_ne_unused7 (s := s.takeInput) hnop hexec, exec_codesOk hexec⟩

/-- Settles O28: every operation but NOP goes to a named state, and in state code 7 the operation is CLR or ILL. -/
theorem reservedCodesAreNeverProduced : Obligations.ReservedCodesAreNeverProduced := by
  intro s hwf
  obtain ⟨t, ht⟩ := step_completes hwf
  obtain ⟨hstate, hevt, hop⟩ := step_avoids_reserved ht
  exact ⟨t, ht, hstate, hevt, hop, operation_eq_ill⟩

end Sys2Proof.Machine
end

section
/-!
PROOFS. The operation table (30_encoding.md R80) against the decoder: a row that takes a word selects the operation of
that word, some row takes every word, and rows that share a match and mask exclude each other (R72).
-/

namespace Sys2Proof.Machine

/-! ### The table as a list -/

/-- A row is taken when its match and mask fit and its guard holds. -/
theorem takes_iff {r : OpRow} {g : GuardCtx} {w : OpWord} :
    r.takes g w = true ↔ w &&& r.mask = r.mat ∧ r.guard g w.b = true := by
  simp [OpRow.takes]

/-- The code of a row is the code of the operation that the row selects. -/
theorem opCode_sel {r : OpRow} (hr : r ∈ opTable) (w : OpWord) : (r.sel w).opCode = r.code := by
  simp only [opTable, opTableControlSync, opTableFields, opTableBody, List.cons_append, List.nil_append,
    List.mem_cons, List.not_mem_nil, or_false] at hr
  rcases hr with rfl | rfl | rfl | rfl | rfl | rfl | rfl | rfl | rfl | rfl | rfl | rfl | rfl | rfl | rfl | rfl |
    rfl | rfl <;> rfl

/-- NOP, code 0, is told from the other rows by its match and mask. -/
theorem code_eq_zero_iff : ∀ r ∈ opTable, r.code = 0 ↔ r.mat = 0x0000 ∧ r.mask = 0x1800 := by decide

/-- The matches that several rows share: those of the states Direction, Length, Command, Payload and Checksum. -/
def sharedMatches : List OpWord := [0x0A00, 0x0B00, 0x0C00, 0x0D00, 0x0E00]

/-- Rows that share a match and mask are rows of `sharedMatches`. -/
theorem mem_sharedMatches_of_shared : ∀ r₁ ∈ opTable, ∀ r₂ ∈ opTable, r₁.mat = r₂.mat → r₁.mask = r₂.mask →
    r₁.code ≠ r₂.code → r₁.mat ∈ sharedMatches ∧ r₁.mask = 0x1F00 := by decide

/-! ### The operation of a row that takes the word -/

@[simp] theorem guardCtx_cfg (s : State) : s.guardCtx.cfg = s.cfg := rfl
@[simp] theorem guardCtx_len (s : State) : s.guardCtx.len = s.len := rfl
@[simp] theorem guardCtx_idx (s : State) : s.guardCtx.idx = s.idx := rfl
@[simp] theorem guardCtx_cks (s : State) : s.guardCtx.cks = s.cks := rfl

@[simp] theorem opWord_b (s : State) (inp : StepInput) : (s.opWord inp).b = inp.b := by simp [State.opWord]

/-- A word that fits the match of a byte row is decoded by its byte. -/
theorem operation_of_fits {s : State} {inp : StepInput} {st : StateCode} (hst : st ≠ .unused7)
    (hfit : s.opWord inp &&& 0x1F00 = OpWord.pack false true st 0) :
    s.operation inp = decodeByte s.guardCtx inp.b st := by
  obtain ⟨hclr, hvld, rfl⟩ := (opWord_and_1F00 s inp true st).mp hfit
  simp [operation_eq, hclr, hvld, hst]

section
variable {s : State} {inp : StepInput} {r : OpRow} (ht : r.takes s.guardCtx (s.opWord inp) = true)
include ht

/-- Rows 1 to 7. NOP fits state code 7 too, where ILL comes first: there it is not the operation. -/
theorem sel_eq_operation_controlSync (hr : r ∈ opTableControlSync) (h7 : r.code = 0 → s.state ≠ .unused7) :
    r.sel (s.opWord inp) = s.operation inp := by
  obtain ⟨hfit, hguard⟩ := takes_iff.mp ht
  simp only [opTableControlSync, List.mem_cons, List.not_mem_nil, or_false] at hr
  rcases hr with rfl | rfl | rfl | rfl | rfl | rfl | rfl
  · have hclr := (opWord_and_1000 s inp).mp hfit
    simp [operation_eq, hclr, State.opWord]
  · obtain ⟨hclr, hst⟩ := (opWord_and_1700 s inp).mp hfit
    simp [operation_eq_ill hst hclr, State.opWord]
  · obtain ⟨hclr, hvld⟩ := (opWord_and_1800 s inp).mp hfit
    simp [operation_eq, hclr, hvld, h7 rfl, State.opWord]
  · obtain ⟨hclr, hvld, hst, hb⟩ := (opWord_and_1FFF s inp true .idle 0x24).mp hfit
    simp [operation_eq, hclr, hvld, hst, hb, decodeByte, Config.sync0]
  · rw [operation_of_fits (st := .idle) nofun hfit]
    have hb : inp.b ≠ Config.sync0 := by simpa [Config.sync0] using hguard
    simp [decodeByte, hb]
  · obtain ⟨hclr, hvld, hst, hb⟩ := (opWord_and_1FFF s inp true .header 0x43).mp hfit
    simp [operation_eq, hclr, hvld, hst, hb, decodeByte, Config.sync1]
  · rw [operation_of_fits (st := .header) nofun hfit]
    have hb : inp.b ≠ Config.sync1 := by simpa [Config.sync1] using hguard
    simp [decodeByte, hb]

/-- Rows 8 to 12. DIR_RSP does not meet DIR_REQ because the two direction bytes differ (00_scope.md R8). -/
theorem sel_eq_operation_fields (hr : r ∈ opTableFields) (hwf : Config.wf s.cfg = true) :
    r.sel (s.opWord inp) = s.operation inp := by
  obtain ⟨hfit, hguard⟩ := takes_iff.mp ht
  simp only [opTableFields, List.mem_cons, List.not_mem_nil, or_false] at hr
  rcases hr with rfl | rfl | rfl | rfl | rfl
  · have hb : inp.b = s.cfg.dirRequest := by simpa using hguard
    simp [operation_of_fits (st := .direction) nofun hfit, decodeByte, hb]
  · have hb : inp.b = s.cfg.dirResponse := by simpa using hguard
    have hne : s.cfg.dirRequest ≠ s.cfg.dirResponse := bne_iff_ne.mp hwf
    simp [operation_of_fits (st := .direction) nofun hfit, decodeByte, hb, hne.symm]
  · have hb : inp.b ≠ s.cfg.dirRequest ∧ inp.b ≠ s.cfg.dirResponse := by simpa using hguard
    simp [operation_of_fits (st := .direction) nofun hfit, decodeByte, hb]
  · have hb : inp.b.toNat ≤ s.cfg.lenLimit.toNat := by simpa using hguard
    simp [operation_of_fits (st := .length) nofun hfit, decodeByte, GuardCtx.lenFits, BitVec.le_def, hb]
  · have hb : ¬ inp.b.toNat ≤ s.cfg.lenLimit.toNat := by simpa using hguard
    simp [operation_of_fits (st := .length) nofun hfit, decodeByte, GuardCtx.lenFits, BitVec.le_def, hb]

/-- Rows 13 to 18. -/
theorem sel_eq_operation_body (hr : r ∈ opTableBody) : r.sel (s.opWord inp) = s.operation inp := by
  obtain ⟨hfit, hguard⟩ := takes_iff.mp ht
  simp only [opTableBody, List.mem_cons, List.not_mem_nil, or_false] at hr
  rcases hr with rfl | rfl | rfl | rfl | rfl | rfl
  · have hlen : s.len ≠ 0#8 := by simpa using hguard
    simp [operation_of_fits (st := .command) nofun hfit, decodeByte, hlen]
  · have hlen : s.len = 0 := by simpa using hguard
    simp [operation_of_fits (st := .command) nofun hfit, decodeByte, hlen]
  · have hidx : s.idx.toNat + 1 < s.len.toNat := of_decide_eq_true hguard
    simp [operation_of_fits (st := .payload) nofun hfit, decodeByte, GuardCtx.moreToCome, hidx]
  · have hidx : ¬ s.idx.toNat + 1 < s.len.toNat := Nat.not_lt.mpr (of_decide_eq_true hguard)
    simp [operation_of_fits (st := .payload) nofun hfit, decodeByte, GuardCtx.moreToCome, hidx]
  · have hb : inp.b = s.cks := by simpa using hguard
    simp [operation_of_fits (st := .checksum) nofun hfit, decodeByte, hb]
  · have hb : inp.b ≠ s.cks := by simpa using hguard
    simp [operation_of_fits (st := .checksum) nofun hfit, decodeByte, hb]

/-- A row that takes the word selects the operation of the step, save that NOP also fits state code 7. -/
theorem sel_eq_operation (hr : r ∈ opTable) (hwf : Config.wf s.cfg = true) (h7 : r.code = 0 → s.state ≠ .unused7) :
    r.sel (s.opWord inp) = s.operation inp := by
  simp only [opTable, List.mem_append] at hr
  obtain (hr | hr) | hr := hr
  · exact sel_eq_operation_controlSync ht hr h7
  · exact sel_eq_operation_fields ht hr hwf
  · exact sel_eq_operation_body ht hr

end

/-! ### Some row takes the word -/

/-- The guards of rows that share a match cover every byte in every guard context. -/
theorem exists_guard_of_sharedMatch (g : GuardCtx) (b : Byte) {m : OpWord} (hm : m ∈ sharedMatches) :
    ∃ r ∈ opTable, r.mat = m ∧ r.mask = 0x1F00 ∧ r.guard g b = true := by
  simp only [sharedMatches, List.mem_cons, List.not_mem_nil, or_false] at hm
  rcases hm with rfl | rfl | rfl | rfl | rfl
  · by_cases hreq : b = g.cfg.dirRequest
    · exact ⟨opTable[7], List.getElem_mem _, rfl, rfl, beq_iff_eq.mpr hreq⟩
    · by_cases hrsp : b = g.cfg.dirResponse
      · exact ⟨opTable[8], List.getElem_mem _, rfl, rfl, beq_iff_eq.mpr hrsp⟩
      · exact ⟨opTable[9], List.getElem_mem _, rfl, rfl,
          Bool.and_eq_true_iff.mpr ⟨bne_iff_ne.mpr hreq, bne_iff_ne.mpr hrsp⟩⟩
  · obtain h | h := Nat.lt_or_ge g.cfg.lenLimit.toNat b.toNat
    · exact ⟨opTable[11], List.getElem_mem _, rfl, rfl, decide_eq_true h⟩
    · exact ⟨opTable[10], List.getElem_mem _, rfl, rfl, decide_eq_true h⟩
  · by_cases h : g.len = 0
    · exact ⟨opTable[13], List.getElem_mem _, rfl, rfl, beq_iff_eq.mpr h⟩
    · exact ⟨opTable[12], List.getElem_mem _, rfl, rfl, bne_iff_ne.mpr h⟩
  · obtain h | h := Nat.lt_or_ge (g.idx.toNat + 1) g.len.toNat
    · exact ⟨opTable[14], List.getElem_mem _, rfl, rfl, decide_eq_true h⟩
    · exact ⟨opTable[15], List.getElem_mem _, rfl, rfl, decide_eq_true h⟩
  · by_cases h : b = g.cks
    · exact ⟨opTable[16], List.getElem_mem _, rfl, rfl, beq_iff_eq.mpr h⟩
    · exact ⟨opTable[17], List.getElem_mem _, rfl, rfl, bne_iff_ne.mpr h⟩

/-- Where a shared match fits the word, one of the rows that share it takes the word. -/
theorem exists_takes_of_sharedMatch (g : GuardCtx) {w m : OpWord} (hm : m ∈ sharedMatches)
    (hfit : w &&& 0x1F00 = m) : ∃ r ∈ opTable, r.mat = m ∧ r.mask = 0x1F00 ∧ r.takes g w = true := by
  obtain ⟨r, hr, hmat, hmask, hguard⟩ := exists_guard_of_sharedMatch g w.b hm
  exact ⟨r, hr, hmat, hmask, takes_iff.mpr ⟨by rw [hmask, hmat, hfit], hguard⟩⟩

/-- Some row takes the word of every step. -/
theorem exists_takes (s : State) (inp : StepInput) :
    ∃ r ∈ opTable, r.takes s.guardCtx (s.opWord inp) = true := by
  cases hclr : inp.clr with
  | true => exact ⟨opTable[0], List.getElem_mem _, takes_iff.mpr ⟨(opWord_and_1000 s inp).mpr hclr, rfl⟩⟩
  | false =>
    cases hvld : inp.vld with
    | false => exact ⟨opTable[2], List.getElem_mem _, takes_iff.mpr ⟨(opWord_and_1800 s inp).mpr ⟨hclr, hvld⟩, rfl⟩⟩
    | true =>
      have hfit := (opWord_and_1F00 s inp true s.state).mpr ⟨hclr, hvld, rfl⟩
      have byByte (hm : OpWord.pack false true s.state 0 ∈ sharedMatches) :
          ∃ r ∈ opTable, r.takes s.guardCtx (s.opWord inp) = true := by
        obtain ⟨r, hr, -, -, ht⟩ := exists_takes_of_sharedMatch s.guardCtx hm hfit
        exact ⟨r, hr, ht⟩
      cases hst : s.state with
      | unused7 =>
        exact ⟨opTable[1], List.getElem_mem _, takes_iff.mpr ⟨(opWord_and_1700 s inp).mpr ⟨hclr, hst⟩, rfl⟩⟩
      | idle =>
        rw [hst] at hfit
        by_cases hb : inp.b = 0x24
        · exact ⟨opTable[3], List.getElem_mem _,
            takes_iff.mpr ⟨(opWord_and_1FFF s inp true .idle 0x24).mpr ⟨hclr, hvld, hst, hb⟩, rfl⟩⟩
        · exact ⟨opTable[4], List.getElem_mem _, takes_iff.mpr ⟨hfit, bne_iff_ne.mpr (by rwa [opWord_b])⟩⟩
      | header =>
        rw [hst] at hfit
        by_cases hb : inp.b = 0x43
        · exact ⟨opTable[5], List.getElem_mem _,
            takes_iff.mpr ⟨(opWord_and_1FFF s inp true .header 0x43).mpr ⟨hclr, hvld, hst, hb⟩, rfl⟩⟩
        · exact ⟨opTable[6], List.getElem_mem _, takes_iff.mpr ⟨hfit, bne_iff_ne.mpr (by rwa [opWord_b])⟩⟩
      | _ => exact byByte (by rw [hst]; decide)

/-! ### The first row that takes the word -/

/-- In state code 7, without `clr`, the first row that takes the word is ILL, ahead of NOP. -/
theorem find?_opTable_of_unused7 {s : State} {inp : StepInput} (h7 : s.state = .unused7) (hclr : inp.clr = false) :
    opTable.find? (fun r => r.takes s.guardCtx (s.opWord inp)) = some opTable[1] := by
  have notClr : ¬ opTable[0].takes s.guardCtx (s.opWord inp) = true := fun ht => by
    simpa [hclr] using (opWord_and_1000 s inp).mp (takes_iff.mp ht).1
  have ill : opTable[1].takes s.guardCtx (s.opWord inp) = true :=
    takes_iff.mpr ⟨(opWord_and_1700 s inp).mpr ⟨hclr, h7⟩, rfl⟩
  refine List.find?_eq_some_iff_getElem.mpr ⟨ill, 1, by decide, rfl, fun j hj => ?_⟩
  obtain rfl : j = 0 := Nat.lt_one_iff.mp hj
  simpa using notClr

/-- The edge of a word that NOP takes has no `clr`. -/
theorem clr_eq_false_of_takes_nop {s : State} {inp : StepInput} {r : OpRow} (hr : r ∈ opTable) (hcode : r.code = 0)
    (ht : r.takes s.guardCtx (s.opWord inp) = true) : inp.clr = false := by
  obtain ⟨hmat, hmask⟩ := (code_eq_zero_iff r hr).mp hcode
  obtain ⟨hfit, -⟩ := takes_iff.mp ht
  rw [hmat, hmask] at hfit
  exact ((opWord_and_1800 s inp).mp hfit).1

/-- The first row that takes the word selects the operation of the step (30_encoding.md R72). -/
theorem exists_first_row {s : State} (inp : StepInput) (hwf : Config.wf s.cfg = true) :
    ∃ r ∈ opTable, opTable.find? (fun r => r.takes s.guardCtx (s.opWord inp)) = some r ∧
      r.sel (s.opWord inp) = s.operation inp := by
  obtain ⟨r, hfind⟩ := Option.isSome_iff_exists.mp (List.find?_isSome.mpr (exists_takes s inp))
  have hr := List.mem_of_find?_eq_some hfind
  have ht := List.find?_some hfind
  refine ⟨r, hr, hfind, sel_eq_operation ht hr hwf fun hcode h7 => ?_⟩
  have hill : r = opTable[1] := Option.some.inj <|
    hfind.symm.trans (find?_opTable_of_unused7 h7 (clr_eq_false_of_takes_nop hr hcode ht))
  exact absurd hcode (by rw [hill]; decide)

/-! ### Rows that share a match and mask -/

/-- Every guard context and word are those of some state and input. -/
theorem exists_guardCtx_opWord (g : GuardCtx) (w : OpWord) :
    ∃ (s : State) (inp : StepInput), s.guardCtx = g ∧ s.opWord inp = w :=
  ⟨{ State.reset with cfg := g.cfg, len := g.len, idx := g.idx, cks := g.cks, state := w.st },
    ⟨false, w.clr, w.vld, w.b⟩, rfl, OpWord.pack_fields w⟩

/-- Rows that share a match and mask exclude each other: each selects the one operation of the word. -/
theorem code_eq_of_takes {g : GuardCtx} {w : OpWord} (hwf : Config.wf g.cfg = true) {r₁ r₂ : OpRow}
    (hr₁ : r₁ ∈ opTable) (hr₂ : r₂ ∈ opTable) (hmat : r₁.mat = r₂.mat) (hmask : r₁.mask = r₂.mask)
    (ht₁ : r₁.takes g w = true) (ht₂ : r₂.takes g w = true) : r₁.code = r₂.code := by
  obtain ⟨s, inp, rfl, rfl⟩ := exists_guardCtx_opWord g w
  have hnop : r₁.code = 0 ↔ r₂.code = 0 := by rw [code_eq_zero_iff r₁ hr₁, code_eq_zero_iff r₂ hr₂, hmat, hmask]
  by_cases h₁ : r₁.code = 0
  · rw [h₁, hnop.mp h₁]
  · have h₂ := mt hnop.mpr h₁
    calc r₁.code = (s.operation inp).opCode := by
          rw [← sel_eq_operation ht₁ hr₁ hwf (absurd · h₁), opCode_sel hr₁]
      _ = r₂.code := by rw [← sel_eq_operation ht₂ hr₂ hwf (absurd · h₂), opCode_sel hr₂]

/-- Settles O26: some row takes the word, a row that takes it selects the one operation of the word, and the guards of
rows that share a match cover every byte. -/
theorem stepTakesFirstFittingRow : Obligations.StepTakesFirstFittingRow := by
  refine ⟨fun s hwf hrst => ?_, fun g w hwf r₁ hr₁ r₂ hr₂ => code_eq_of_takes hwf hr₁ hr₂,
    fun g w r₁ hr₁ r₂ hr₂ hmat hmask hcode hfit => ?_⟩
  · obtain ⟨r, hr, hfind, hsel⟩ := exists_first_row s.nextInput hwf
    obtain ⟨t, hexec⟩ := exec_completes (s.operation s.nextInput) s.takeInput
    refine ⟨r, t, hfind, hsel, step_next_iff.mpr ⟨hwf, .inr ⟨hrst, hexec⟩⟩, ?_⟩
    rw [exec_op hexec, ← hsel, opCode_sel hr]
  · obtain ⟨hm, hmask₁⟩ := mem_sharedMatches_of_shared r₁ hr₁ r₂ hr₂ hmat hmask hcode
    rw [hmask₁] at hfit ⊢
    exact exists_takes_of_sharedMatch g hm hfit

end Sys2Proof.Machine
end

section
/-!
PROOFS. Which edges take a byte's operation (30_encoding.md R72, R80), by the fields of the edge and by its word, and the
operations of the Idle and Header states (40_sync.md).
-/

namespace Sys2Proof.Machine

/-! ### The operation of a byte -/

/-- The operation that a byte performs in a state has that state and byte in its word. -/
theorem encode_decodeByte (g : GuardCtx) (b : Byte) (st : StateCode) :
    encode (decodeByte g b st) = OpWord.pack false true st b := by
  cases st with
  | idle => by_cases h : b = Config.sync0 <;> simp [decodeByte, encode, h]
  | header => by_cases h : b = Config.sync1 <;> simp [decodeByte, encode, h]
  | unused7 => rfl
  | _ => rw [decodeByte]; split_ifs <;> rfl

/-- The word of the operation that an edge takes is the edge's own word: no bit is dropped (30_encoding.md R81). -/
theorem encode_operation (s : State) (inp : StepInput) : encode (s.operation inp) = s.opWord inp := by
  rw [operation_eq]
  split_ifs with hclr h7 hvld
  · simp [encode, State.opWord, hclr]
  · simp [encode, State.opWord, hclr, h7]
  · simp [encode_decodeByte, State.opWord, hclr, hvld]
  · simp [encode, State.opWord, hclr, hvld]

section
variable {s : State} {inp : StepInput} {i : Instr} {st : StateCode} {b : Byte}

/-- An edge takes a byte's operation exactly when its fields are those of the operation's word and that byte performs
the operation in that state. -/
theorem operation_eq_iff_fields (hst : st ≠ .unused7) (hi : encode i = OpWord.pack false true st b) :
    s.operation inp = i ↔
      inp.clr = false ∧ inp.vld = true ∧ s.state = st ∧ inp.b = b ∧ decodeByte s.guardCtx b st = i := by
  constructor
  · rintro rfl
    obtain ⟨hclr, hvld, rfl, rfl⟩ := OpWord.pack_inj.mp ((encode_operation s inp).symm.trans hi)
    simp [operation_eq, hclr, hvld, hst]
  · rintro ⟨hclr, hvld, rfl, rfl, rfl⟩
    simp [operation_eq, hclr, hvld, hst]

/-- The same by the match `m` of a row of the mask 0x1F00. -/
theorem operation_eq_iff_word {m : OpWord} (hm : m = OpWord.pack false true st 0) (hst : st ≠ .unused7)
    (hi : encode i = OpWord.pack false true st b) :
    s.operation inp = i ↔ s.opWord inp &&& 0x1F00 = m ∧ inp.b = b ∧ decodeByte s.guardCtx b st = i := by
  rw [operation_eq_iff_fields hst hi, hm, opWord_and_1F00]
  simp only [and_assoc]

end

/-! ### What an operation without data leaves alone -/

/-- An operation that writes only `state`, `evt` and `op` completes and keeps everything else. -/
theorem exec_frame_of_control {i : Instr} {s : State} {st : StateCode} {e : Event} {o : BitVec 5}
    (h : exec i s = .next { s with state := st, evt := e, op := o }) :
    ∃ t, exec i s = .next t ∧ t.state = st ∧ t.evt = e ∧ t.op = o ∧
      KeepsParseRegs s t ∧ KeepsOutputs s t ∧ KeepsRest s t :=
  ⟨_, h, rfl, rfl, rfl, ⟨rfl, rfl, rfl, rfl, rfl, fun _ => rfl⟩, ⟨rfl, rfl, rfl, rfl, rfl, fun _ => rfl⟩, exec_rest h⟩

/-! ### The Idle state -/

/-- Every byte but `'$'` is skipped in Idle. -/
theorem decodeByte_idle_eq_idleSkip_iff {g : GuardCtx} {b : Byte} :
    decodeByte g b .idle = .idleSkip b ↔ b ≠ 0x24 := by
  by_cases h : b = 0x24#8 <;> simp [decodeByte, Config.sync0, h]

/-- The edges of IDLE_SYNC0 (40_sync.md R100). -/
theorem operation_eq_idleSync0_iff (s : State) (inp : StepInput) :
    s.operation inp = .idleSync0 ↔ inp.clr = false ∧ inp.vld = true ∧ s.state = .idle ∧ inp.b = 0x24 := by
  have hdollar : decodeByte s.guardCtx 0x24 .idle = .idleSync0 := rfl
  rw [operation_eq_iff_fields (st := .idle) (b := 0x24) nofun rfl]
  simp only [hdollar, and_true]

/-- Settles O1: the word of IDLE_SYNC0 fixes every field of the edge, and `'$'` in Idle performs it. -/
theorem idleSync0TakesDollarToHeader : Obligations.IdleSync0TakesDollarToHeader := fun s =>
  ⟨operation_eq_idleSync0_iff s,
    fun inp => (operation_eq_idleSync0_iff s inp).trans (opWord_and_1FFF s inp true .idle 0x24).symm,
    exec_frame_of_control (exec_idleSync0 s)⟩

/-- Settles O2: the word of IDLE_SKIP leaves the byte free, and a byte performs it in Idle unless it is `'$'`. -/
theorem idleSkipIgnoresByte : Obligations.IdleSkipIgnoresByte := by
  refine fun s b => ⟨fun inp => ?_, fun inp => ?_, exec_frame_of_control (exec_idleSkip b s)⟩
  · rw [operation_eq_iff_fields (st := .idle) (b := b) nofun rfl, decodeByte_idle_eq_idleSkip_iff]
  · rw [operation_eq_iff_word (st := .idle) (b := b) (m := 0x0800) rfl nofun rfl, decodeByte_idle_eq_idleSkip_iff]

/-! ### The Header state -/

/-- Every byte but `'C'` is rejected in Header, `'$'` among them. -/
theorem decodeByte_header_eq_hdrRej_iff {g : GuardCtx} {b : Byte} :
    decodeByte g b .header = .hdrRej b ↔ b ≠ 0x43 := by
  by_cases h : b = 0x43#8 <;> simp [decodeByte, Config.sync1, h]

/-- The edges of HDR_SYNC1 (40_sync.md R103). -/
theorem operation_eq_hdrSync1_iff (s : State) (inp : StepInput) :
    s.operation inp = .hdrSync1 ↔ inp.clr = false ∧ inp.vld = true ∧ s.state = .header ∧ inp.b = 0x43 := by
  have hC : decodeByte s.guardCtx 0x43 .header = .hdrSync1 := rfl
  rw [operation_eq_iff_fields (st := .header) (b := 0x43) nofun rfl]
  simp only [hC, and_true]

/-- Settles O3: the word of HDR_SYNC1 fixes every field of the edge, and `'C'` in Header performs it. -/
theorem hdrSync1TakesCToDirection : Obligations.HdrSync1TakesCToDirection := fun s =>
  ⟨operation_eq_hdrSync1_iff s,
    fun inp => (operation_eq_hdrSync1_iff s inp).trans (opWord_and_1FFF s inp true .header 0x43).symm,
    exec_frame_of_control (exec_hdrSync1 s)⟩

/-- Settles O4: the word of HDR_REJ leaves the byte free, and a byte performs it in Header unless it is `'C'`. -/
theorem hdrRejReturnsToIdleSilently : Obligations.HdrRejReturnsToIdleSilently := by
  refine fun s b => ⟨fun inp => ?_, fun inp => ?_, exec_frame_of_control (exec_hdrRej b s)⟩
  · rw [operation_eq_iff_fields (st := .header) (b := b) nofun rfl, decodeByte_header_eq_hdrRej_iff]
  · rw [operation_eq_iff_word (st := .header) (b := b) (m := 0x0900) rfl nofun rfl, decodeByte_header_eq_hdrRej_iff]

end Sys2Proof.Machine
end

section
/-!
PROOFS. The operations of the Direction and Length states (41_fields.md): which bytes select them, what they write and
what they leave alone.
-/

namespace Sys2Proof.Machine

/-! ### Selection, by the fields of the edge and by its word -/

/-- The two selection clauses of an operation whose row has the mask 0x1F00 and the match `m`: `P` is the guard of the
row. -/
theorem operation_selection_of_guard {s : State} {i : Instr} {st : StateCode} {b : Byte} {m : OpWord} {P : Prop}
    (hm : m = OpWord.pack false true st 0) (hst : st ≠ .unused7) (hi : encode i = OpWord.pack false true st b)
    (hguard : decodeByte s.guardCtx b st = i ↔ P) :
    (∀ inp, s.operation inp = i ↔ inp.clr = false ∧ inp.vld = true ∧ s.state = st ∧ inp.b = b ∧ P) ∧
      ∀ inp, s.operation inp = i ↔ s.opWord inp &&& 0x1F00 = m ∧ inp.b = b ∧ P :=
  ⟨fun _ => by rw [operation_eq_iff_fields hst hi, hguard], fun _ => by rw [operation_eq_iff_word hm hst hi, hguard]⟩

/-! ### The Direction state -/

/-- The request byte sets the direction Request, and no other byte does. -/
theorem decodeByte_direction_eq_dirReq_iff {g : GuardCtx} {b : Byte} :
    decodeByte g b .direction = .dirReq b ↔ b = g.cfg.dirRequest := by
  rw [decodeByte]
  split_ifs with hreq hrsp <;> simp [hreq]

/-- The response byte sets the direction Response, because it is not the request byte (00_scope.md R8). -/
theorem decodeByte_direction_eq_dirRsp_iff {g : GuardCtx} {b : Byte} (hwf : Config.wf g.cfg = true) :
    decodeByte g b .direction = .dirRsp b ↔ b = g.cfg.dirResponse := by
  have hne : g.cfg.dirRequest ≠ g.cfg.dirResponse := bne_iff_ne.mp hwf
  rw [decodeByte]
  split_ifs with hreq hrsp
  · simp [hreq, hne]
  · simp [hrsp]
  · simp [hrsp]

/-- A byte is rejected in Direction exactly when it is neither direction byte. -/
theorem decodeByte_direction_eq_dirRej_iff {g : GuardCtx} {b : Byte} :
    decodeByte g b .direction = .dirRej b ↔ b ≠ g.cfg.dirRequest ∧ b ≠ g.cfg.dirResponse := by
  rw [decodeByte]
  split_ifs with hreq hrsp
  · simp [hreq]
  · simp [hrsp]
  · simp [hreq, hrsp]

/-- An operation that sets the direction and goes to Length completes and keeps everything else. -/
theorem exec_frame_of_setDir {i : Instr} {s : State} {d : Dir} {o : BitVec 5} (hi : ∀ b, i ≠ .cksOk b)
    (h : exec i s = .next { s with dir := d, state := .length, evt := .evNone, op := o }) :
    ∃ t, exec i s = .next t ∧ t.state = .length ∧ t.dir = d ∧ t.evt = .evNone ∧ t.op = o ∧
      t.len = s.len ∧ t.cmd = s.cmd ∧ t.cks = s.cks ∧ t.idx = s.idx ∧
      (∀ i : Nat, t.buf.read i = s.buf.read i) ∧ KeepsOutputs s t ∧ KeepsRest s t :=
  ⟨_, h, rfl, rfl, rfl, rfl, rfl, rfl, rfl, rfl, fun _ => rfl, exec_keepsOutputs hi h, exec_rest h⟩

/-- Settles O5: in Direction the request byte, whatever its value, selects DIR_REQ, which writes no data but `dir`. -/
theorem dirReqSetsRequest : Obligations.DirReqSetsRequest := fun s b =>
  and_assoc.mp ⟨operation_selection_of_guard rfl nofun rfl decodeByte_direction_eq_dirReq_iff,
    exec_frame_of_setDir nofun (exec_dirReq b s)⟩

/-- Settles O6: in Direction the response byte selects DIR_RSP, since DIR_REQ, which is tried first, takes another
byte. -/
theorem dirRspSetsResponse : Obligations.DirRspSetsResponse := fun s b hwf =>
  and_assoc.mp ⟨operation_selection_of_guard rfl nofun rfl (decodeByte_direction_eq_dirRsp_iff hwf),
    exec_frame_of_setDir nofun (exec_dirRsp b s)⟩

/-- Settles O7: in Direction a byte that is neither direction byte selects DIR_REJ, which writes no data. -/
theorem dirRejReturnsToIdleSilently : Obligations.DirRejReturnsToIdleSilently := fun s b =>
  and_assoc.mp ⟨operation_selection_of_guard rfl nofun rfl decodeByte_direction_eq_dirRej_iff,
    exec_frame_of_control (exec_dirRej b s)⟩

/-! ### The Length state -/

/-- The decoder's length check is the unsigned comparison with `LEN_LIMIT`. -/
theorem lenFits_iff {g : GuardCtx} {b : Byte} : g.lenFits b = true ↔ b.toNat ≤ g.cfg.lenLimit.toNat := by
  rw [GuardCtx.lenFits, decide_eq_true_iff, BitVec.le_def]

/-- A byte up to `LEN_LIMIT` is taken as the length. -/
theorem decodeByte_length_eq_lenOk_iff {g : GuardCtx} {b : Byte} :
    decodeByte g b .length = .lenOk b ↔ b.toNat ≤ g.cfg.lenLimit.toNat := by
  rw [decodeByte, ← lenFits_iff]
  split_ifs with hfits <;> simp [hfits]

/-- A byte above `LEN_LIMIT` is rejected in Length. -/
theorem decodeByte_length_eq_lenRej_iff {g : GuardCtx} {b : Byte} :
    decodeByte g b .length = .lenRej b ↔ g.cfg.lenLimit.toNat < b.toNat := by
  rw [decodeByte, ← Nat.not_le, ← lenFits_iff]
  split_ifs with hfits <;> simp [hfits]

/-- Settles O8: in Length a byte up to `LEN_LIMIT` selects LEN_OK, which writes `len`, `cks` and `idx` and leaves `buf`
as it is. -/
theorem lenOkSeedsLengthChecksumAndIndex : Obligations.LenOkSeedsLengthChecksumAndIndex := fun s b =>
  have hexec := exec_lenOk b s
  and_assoc.mp ⟨operation_selection_of_guard rfl nofun rfl decodeByte_length_eq_lenOk_iff,
    _, hexec, rfl, rfl, rfl, rfl, rfl, rfl, rfl, rfl, fun _ => rfl,
    exec_keepsOutputs (i := .lenOk b) nofun hexec, exec_rest hexec⟩

/-- Settles O9: in Length a byte above `LEN_LIMIT` selects LEN_REJ, which writes no data. -/
theorem lenRejReturnsToIdleSilently : Obligations.LenRejReturnsToIdleSilently := fun s b =>
  and_assoc.mp ⟨operation_selection_of_guard rfl nofun rfl decodeByte_length_eq_lenRej_iff,
    exec_frame_of_control (exec_lenRej b s)⟩

end Sys2Proof.Machine
end

section
/-!
PROOFS. The operations of the Command and Payload states (42_body.md): which edges select them, what they write and what
they leave alone.
-/

namespace Sys2Proof.Machine

/-! ### The Command state -/

/-- The command of a frame that declares a payload leads to Payload, whatever the byte. -/
theorem decodeByte_command_eq_cmdPay_iff {g : GuardCtx} {b : Byte} :
    decodeByte g b .command = .cmdPay b ↔ g.len ≠ 0 := by
  by_cases hlen : g.len = 0#8 <;> simp [decodeByte, hlen]

/-- The command of a frame that declares no payload leads to Checksum, whatever the byte. -/
theorem decodeByte_command_eq_cmdEnd_iff {g : GuardCtx} {b : Byte} :
    decodeByte g b .command = .cmdEnd b ↔ g.len = 0 := by
  by_cases hlen : g.len = 0#8 <;> simp [decodeByte, hlen]

/-- In Command the checksum has accumulated the length byte alone (10_state.md R22). -/
theorem State.Inv.cks_eq_len_of_command {s : State} (hinv : s.Inv) (hst : s.state = .command) : s.cks = s.len := by
  have hparse := hinv.parse
  rw [State.ParseOk, hst] at hparse
  obtain ⟨-, hcks, -⟩ := hparse
  exact hcks

/-- A checksum that was 0 becomes the byte it takes (43_checksum.md R162). -/
@[simp] theorem xorAcc_zero_left (b : Byte) : xorAcc 0 b = b := BitVec.zero_xor

/-- Settles O10: in Command any byte selects CMD_PAY when `len` is not 0; it writes `cmd` and `cks` and leaves `buf` as
it is. -/
theorem cmdPayTakesCommandToPayload : Obligations.CmdPayTakesCommandToPayload := fun s b =>
  have hexec := exec_cmdPay b s
  and_assoc.mp ⟨operation_selection_of_guard rfl nofun rfl decodeByte_command_eq_cmdPay_iff,
    _, hexec, rfl, rfl, rfl, rfl, rfl, rfl, rfl, rfl, fun _ => rfl,
    exec_keepsOutputs (i := .cmdPay b) nofun hexec, exec_rest hexec⟩

/-- Settles O11: in Command any byte selects CMD_END when `len` is 0; the checksum so far equals `len`, so it becomes
the byte. -/
theorem cmdEndTakesCommandToChecksum : Obligations.CmdEndTakesCommandToChecksum := fun s b =>
  have hexec := exec_cmdEnd b s
  have hcks (hinv : s.Inv) (hst : s.state = .command) (hlen : s.len = 0) : xorAcc s.cks b = b := by
    rw [hinv.cks_eq_len_of_command hst, hlen, xorAcc_zero_left]
  and_assoc.mp ⟨operation_selection_of_guard rfl nofun rfl decodeByte_command_eq_cmdEnd_iff,
    _, hexec, rfl, rfl, rfl, hcks, rfl, rfl, rfl, rfl, rfl, fun _ => rfl,
    exec_keepsOutputs (i := .cmdEnd b) nofun hexec, exec_rest hexec⟩

/-! ### The store of a payload byte and its count -/

/-- A byte stored at an entry of `buf` is read back there. -/
theorem writeBuf_buf_read_same {s : State} {i : Nat} (b : Byte) (hwf : s.buf.wf = true)
    (hi : i < Config.bufDepth s.cfg) : (s.writeBuf i b).buf.read i = b := by
  rw [writeBuf_buf_in_range s i b hi, Memory.read_write_same hwf]

/-- A store, in range or not, leaves every other entry of `buf` alone. -/
theorem writeBuf_buf_read_other (s : State) {i j : Nat} (b : Byte) (hij : j ≠ i) :
    (s.writeBuf i b).buf.read j = s.buf.read j := by
  obtain hi | hi := Nat.lt_or_ge i (Config.bufDepth s.cfg)
  · rw [writeBuf_buf_in_range s i b hi, Memory.read_write_other s.buf hij]
  · rw [writeBuf_beyond s i b hi]

/-- The count does not wrap around while it is below some byte (42_body.md R142). -/
theorem toNat_nextIdx_of_lt {idx len : Byte} (h : idx.toNat < len.toNat) : (nextIdx idx).toNat = idx.toNat + 1 := by
  have hlen := len.isLt
  exact BitVec.toNat_add_of_lt (y := 1) (show idx.toNat + 1 < 2 ^ 8 by omega)

/-- The count reaches the declared length with the last byte (42_body.md R143). -/
theorem nextIdx_eq_of_succ_eq {idx len : Byte} (h : idx.toNat + 1 = len.toNat) : nextIdx idx = len :=
  BitVec.eq_of_toNat_eq ((toNat_nextIdx_of_lt (Nat.lt_of_succ_le h.le)).trans h)

/-! ### The Payload state -/

/-- The decoder's check for a further payload byte, without wrap-around. -/
theorem moreToCome_iff {g : GuardCtx} : g.moreToCome = true ↔ g.idx.toNat + 1 < g.len.toNat :=
  decide_eq_true_iff

/-- A payload byte is not the last while more are to come. -/
theorem decodeByte_payload_eq_payMore_iff {g : GuardCtx} {b : Byte} :
    decodeByte g b .payload = .payMore b ↔ g.idx.toNat + 1 < g.len.toNat := by
  rw [decodeByte, ← moreToCome_iff]
  split_ifs with hmore <;> simp [hmore]

/-- A payload byte is the last once it brings the count to the declared length, or beyond it. -/
theorem decodeByte_payload_eq_payLast_iff {g : GuardCtx} {b : Byte} :
    decodeByte g b .payload = .payLast b ↔ g.len.toNat ≤ g.idx.toNat + 1 := by
  rw [decodeByte, ← Nat.not_lt, ← moreToCome_iff]
  split_ifs with hmore <;> simp [hmore]

/-- In Payload fewer bytes than declared have been collected (10_state.md R22). -/
theorem State.Inv.idx_lt_len_of_payload {s : State} (hinv : s.Inv) (hst : s.state = .payload) :
    s.idx.toNat < s.len.toNat := by
  have hparse := hinv.parse
  rw [State.ParseOk, hst] at hparse
  obtain ⟨-, -, hidx, -⟩ := hparse
  exact hidx

/-- Settles O12: in Payload any byte selects PAY_MORE while more are to come; it is stored at the old `idx`, which then
counts one more because it is below `len`. -/
theorem payMoreStoresByteAndStays : Obligations.PayMoreStoresByteAndStays := fun s b =>
  have hexec := exec_payMore b s
  and_assoc.mp ⟨operation_selection_of_guard rfl nofun rfl decodeByte_payload_eq_payMore_iff,
    _, hexec, rfl, rfl, fun hmore => toNat_nextIdx_of_lt (Nat.lt_of_succ_lt hmore),
    writeBuf_buf_read_same b, fun _ => writeBuf_buf_read_other s b, rfl, rfl, rfl, rfl, rfl,
    exec_keepsOutputs (i := .payMore b) nofun hexec, exec_rest hexec⟩

/-- Settles O13: in Payload any byte selects PAY_LAST once none is to come after it; under the invariant `idx` is below
`len`, so the byte brings the count to exactly `len`. -/
theorem payLastStoresByteAndGoesToChecksum : Obligations.PayLastStoresByteAndGoesToChecksum := fun s b =>
  have hexec := exec_payLast b s
  have hlast (hinv : s.Inv) (hst : s.state = .payload) (hle : s.len.toNat ≤ s.idx.toNat + 1) :
      s.idx.toNat + 1 = s.len.toNat :=
    Nat.le_antisymm (hinv.idx_lt_len_of_payload hst) hle
  and_assoc.mp ⟨operation_selection_of_guard rfl nofun rfl decodeByte_payload_eq_payLast_iff,
    hlast, _, hexec, rfl, rfl, nextIdx_eq_of_succ_eq,
    writeBuf_buf_read_same b, fun _ => writeBuf_buf_read_other s b, rfl, rfl, rfl, rfl, rfl,
    exec_keepsOutputs (i := .payLast b) nofun hexec, exec_rest hexec⟩

end Sys2Proof.Machine
end

section
/-!
PROOFS. The operations of the Checksum state (43_checksum.md): which edges select them, what they write and what they
leave alone.
-/

namespace Sys2Proof.Machine

/-! ### The Checksum state -/

/-- A byte that equals the running checksum completes the message. -/
theorem decodeByte_checksum_eq_cksOk_iff {g : GuardCtx} {b : Byte} :
    decodeByte g b .checksum = .cksOk b ↔ b = g.cks := by
  rw [decodeByte]
  split_ifs with hcks <;> simp [hcks]

/-- Any other byte fails the checksum. -/
theorem decodeByte_checksum_eq_cksBad_iff {g : GuardCtx} {b : Byte} :
    decodeByte g b .checksum = .cksBad b ↔ b ≠ g.cks := by
  rw [decodeByte]
  split_ifs with hcks <;> simp [hcks]

/-! ### The latched message -/

/-- A state whose outputs are valid shows the message that they hold (10_state.md R23). -/
theorem out_eq_some_of_outVld {s : State} (h : s.outVld = true) :
    s.out = some { dir := s.outDir, len := s.outLen, cmd := s.outCmd, payload := s.obuf.bytes s.outLen.toNat,
                   cks := s.outCks } := by
  rw [State.out, h]

/-- The latched entries of `obuf` are the first `len` bytes of `buf`, when `buf` has that many (43_checksum.md R160). -/
theorem latchOut_obuf_bytes {s : State} (b : Byte) (hlen : s.len.toNat ≤ Config.bufDepth s.cfg) :
    (s.latchOut b).obuf.bytes s.len.toNat = s.buf.bytes s.len.toNat := by
  rw [latchOut_obuf, Memory.bytes_below (le_min le_rfl hlen)]

/-- As an abstract message, CKS_OK outputs the parse registers, the first `len` bytes of `buf` and the byte. -/
theorem exec_cksOk_out {b : Byte} {s t : State} (h : exec (.cksOk b) s = .next t)
    (hlen : s.len.toNat ≤ Config.bufDepth s.cfg) :
    t.out = some { dir := s.dir, len := s.len, cmd := s.cmd, payload := s.buf.bytes s.len.toNat, cks := b } := by
  cases h
  rw [← latchOut_obuf_bytes b hlen]
  exact out_eq_some_of_outVld rfl

/-- Settles O15: in Checksum the byte that equals `cks` selects CKS_OK, which writes the output registers from the parse
registers and goes to Idle. -/
theorem cksOkLatchesMessage : Obligations.CksOkLatchesMessage := fun s b =>
  have hexec := exec_cksOk b s
  have ⟨hvld, hdir, hlen, hcmd, hcks, hobuf⟩ := exec_cksOk_writes_outputs hexec
  and_assoc.mp ⟨operation_selection_of_guard rfl nofun rfl decodeByte_checksum_eq_cksOk_iff,
    _, hexec, rfl, rfl, rfl, hvld, hdir, hlen, hcmd, hcks, hobuf, exec_cksOk_out hexec,
    ⟨rfl, rfl, rfl, rfl, rfl, fun _ => rfl⟩, exec_rest hexec⟩

/-- Settles O16: in Checksum every byte but `cks` selects CKS_BAD, which writes no data, so the outputs keep the last
good message. -/
theorem cksBadReportsAndDrops : Obligations.CksBadReportsAndDrops := fun s b =>
  and_assoc.mp ⟨operation_selection_of_guard rfl nofun rfl decodeByte_checksum_eq_cksBad_iff,
    exec_frame_of_control (exec_cksBad b s)⟩

end Sys2Proof.Machine
end

section
/-!
PROOFS. The operations that are not bytes of a frame (44_control.md): which edges select NOP, CLR and ILL, and what they
leave alone.
-/

namespace Sys2Proof.Machine

/-! ### Selection -/

/-- An edge takes an operation exactly when its word is the operation's own word and that word decodes to it. -/
theorem operation_eq_iff_opWord {s : State} {inp : StepInput} {i : Instr} :
    s.operation inp = i ↔ s.opWord inp = encode i ∧ decode s.guardCtx (encode i) = i := by
  constructor
  · rintro rfl
    rw [encode_operation]
    exact ⟨rfl, rfl⟩
  · rintro ⟨hword, hdecode⟩
    rw [State.operation, hword, hdecode]

/-- A CLR word decodes to CLR whatever else it holds: row 1 comes first. -/
theorem decode_encode_clr (g : GuardCtx) (v : Bool) (st : StateCode) (b : Byte) :
    decode g (encode (.clr v st b)) = .clr v st b := by
  simp [decode, encode]

/-- An ILL word decodes to ILL, with or without a byte: row 2 comes before NOP and every byte's row. -/
theorem decode_encode_ill (g : GuardCtx) (v : Bool) (b : Byte) : decode g (encode (.ill v b)) = .ill v b := by
  simp [decode, encode]

/-- A NOP word decodes to NOP outside state code 7, where ILL comes first. -/
theorem decode_encode_nop_iff {g : GuardCtx} {st : StateCode} {b : Byte} :
    decode g (encode (.nop st b)) = .nop st b ↔ st ≠ .unused7 := by
  by_cases h7 : st = .unused7 <;> simp [decode, encode, h7]

/-- The edges of CLR (44_control.md R181). -/
theorem operation_eq_clr_iff {s : State} {inp : StepInput} {v : Bool} {st : StateCode} {b : Byte} :
    s.operation inp = .clr v st b ↔ inp.clr = true ∧ inp.vld = v ∧ s.state = st ∧ inp.b = b := by
  rw [operation_eq_iff_opWord, and_iff_left (decode_encode_clr _ v st b), State.opWord, encode, OpWord.pack_inj]

/-- The edges of ILL (44_control.md R183). -/
theorem operation_eq_ill_iff {s : State} {inp : StepInput} {v : Bool} {b : Byte} :
    s.operation inp = .ill v b ↔ inp.clr = false ∧ s.state = .unused7 ∧ inp.vld = v ∧ inp.b = b := by
  rw [operation_eq_iff_opWord, and_iff_left (decode_encode_ill _ v b), State.opWord, encode, OpWord.pack_inj,
    and_left_comm (a := inp.vld = v)]

/-- The edges of NOP (44_control.md R180). -/
theorem operation_eq_nop_iff {s : State} {inp : StepInput} {st : StateCode} {b : Byte} :
    s.operation inp = .nop st b ↔
      inp.clr = false ∧ inp.vld = false ∧ s.state = st ∧ inp.b = b ∧ st ≠ .unused7 := by
  rw [operation_eq_iff_opWord, decode_encode_nop_iff, State.opWord, encode, OpWord.pack_inj]
  simp only [and_assoc]

/-! ### What the abstract state shows -/

/-- In Idle no parse register is live (10_state.md R30). -/
theorem parse_of_idle {s : State} (h : s.state = .idle) : s.parse = some .idle := by
  rw [State.parse, h]

/-- The abstract message depends on the output registers alone, on `obuf` byte by byte (10_state.md R30). -/
theorem KeepsOutputs.out_eq {s t : State} (h : KeepsOutputs s t) : t.out = s.out := by
  obtain ⟨hvld, hdir, hlen, hcmd, hcks, hobuf⟩ := h
  have hbytes (n : Nat) : t.obuf.bytes n = s.obuf.bytes n := List.map_congr_left fun i _ => hobuf i
  simp only [State.out, hvld, hdir, hlen, hcmd, hcks, hbytes]

/-- The invariant's clause on the parse state leaves out state code 7 (10_state.md R22). -/
theorem State.Inv.state_ne_unused7 {s : State} (hinv : s.Inv) : s.state ≠ .unused7 := by
  intro h7
  have hparse := hinv.parse
  rwa [State.ParseOk, h7] at hparse

/-! ### The operations -/

/-- Settles O17: an edge with neither `clr` nor a byte selects NOP outside state code 7, and NOP writes only `evt` and
`op`. -/
theorem nopKeepsEverything : Obligations.NopKeepsEverything := fun s st b =>
  ⟨fun _ => operation_eq_nop_iff,
    fun inp => by rw [operation_eq_nop_iff, opWord_and_1800, and_assoc],
    exec_frame_of_control (exec_nop st b s)⟩

/-- Settles O18: `clr` selects CLR in every state; it writes no data, so the message shown stays, and Idle makes the
parse registers not live. -/
theorem clrDiscardsParseStateKeepsOutputs : Obligations.ClrDiscardsParseStateKeepsOutputs := fun s v st b =>
  have ⟨t, hexec, hidle, hevt, hop, hparse, hout, hrest⟩ := exec_frame_of_control (exec_clr v st b s)
  ⟨fun _ => operation_eq_clr_iff,
    fun inp => by rw [operation_eq_clr_iff, opWord_and_1000],
    t, hexec, hidle, parse_of_idle hidle, hout.out_eq, hevt, hop, hparse, hout, hrest⟩

/-- Settles O19: without `clr`, state code 7 selects ILL, byte or no byte; it goes to Idle and writes no data. -/
theorem illRecoversFromUnusedCode : Obligations.IllRecoversFromUnusedCode := fun s v b =>
  ⟨fun _ => operation_eq_ill_iff,
    fun inp => by rw [operation_eq_ill_iff, opWord_and_1700, and_assoc],
    State.Inv.state_ne_unused7,
    exec_frame_of_control (exec_ill v b s)⟩

end Sys2Proof.Machine
end

section
/-!
PROOFS. The priority of simultaneous inputs and the recovery to Idle (60_exceptions.md R206, R207).
-/

namespace Sys2Proof.Machine

/-! ### What every edge leaves alone -/

/-- An edge keeps the parameters, uses up one input and is counted, whether it is a reset or an operation. -/
theorem step_rest {s t : State} (h : step s = .next t) :
    t.cfg = s.cfg ∧ t.inputs = s.inputs.tail ∧ t.draws = s.draws + 1 := by
  obtain ⟨-, ⟨-, rfl⟩ | ⟨-, hexec⟩⟩ := step_next_iff.mp h
  · exact ⟨rfl, rfl, rfl⟩
  · exact exec_rest hexec

/-! ### The priority order, one lemma per rank -/

theorem atInit_enterInit (s : State) : AtInit s.enterInit := by
  simp [AtInit, enterInit_eq, State.init]

/-- A byte outside state code 7 performs none of CLR, ILL and NOP, whose codes are those below 3. -/
theorem three_le_opCode_decodeByte (g : GuardCtx) (b : Byte) {st : StateCode} (hst : st ≠ .unused7) :
    3 ≤ (decodeByte g b st).opCode.toNat := by
  cases st with
  | unused7 => exact absurd rfl hst
  | _ => rw [decodeByte]; split_ifs <;> simp [Instr.opCode]

section
variable {s t : State} (h : step s = .next t)
include h

/-- Rank 1: an edge with `rst` enters INIT whatever the other inputs. -/
theorem step_eq_enterInit_of_rst (hrst : s.nextInput.rst = true) : t = s.takeInput.enterInit := by
  obtain ⟨-, ⟨-, hinit⟩ | ⟨hno, -⟩⟩ := step_next_iff.mp h
  · exact hinit
  · simp [hrst] at hno

/-- Every lower rank: an edge without `rst` runs the operation of its word. -/
theorem exec_operation_of_step (hrst : s.nextInput.rst = false) :
    exec (s.operation s.nextInput) s.takeInput = .next t := by
  obtain ⟨-, ⟨hyes, -⟩ | ⟨-, hexec⟩⟩ := step_next_iff.mp h
  · simp [hrst] at hyes
  · exact hexec

/-- Rank 2: `clr` is CLR in every state, with a byte or without. -/
theorem step_of_clr (hrst : s.nextInput.rst = false) (hclr : s.nextInput.clr = true) :
    t.op = 1 ∧ t.state = .idle ∧ t.evt = .evNone := by
  have hexec := exec_operation_of_step h hrst
  rw [operation_eq_clr_iff.mpr ⟨hclr, rfl, rfl, rfl⟩] at hexec
  cases hexec
  exact ⟨rfl, rfl, rfl⟩

/-- Rank 3: state code 7 is ILL, with a byte or without. -/
theorem step_of_unused7 (hrst : s.nextInput.rst = false) (hclr : s.nextInput.clr = false)
    (h7 : s.state = .unused7) : t.op = 2 ∧ t.state = .idle := by
  have hexec := exec_operation_of_step h hrst
  rw [operation_eq_ill h7 hclr] at hexec
  cases hexec
  exact ⟨rfl, rfl⟩

/-- Rank 4: a byte performs its operation in the state it finds. -/
theorem step_op_of_byte (hrst : s.nextInput.rst = false) (hclr : s.nextInput.clr = false)
    (h7 : s.state ≠ .unused7) (hvld : s.nextInput.vld = true) :
    t.op = (decodeByte s.guardCtx s.nextInput.b s.state).opCode := by
  have hbyte : s.operation s.nextInput = decodeByte s.guardCtx s.nextInput.b s.state := by
    simp [operation_eq, hclr, h7, hvld]
  rw [exec_op (exec_operation_of_step h hrst), hbyte]

/-- Rank 5: with nothing active the edge is NOP. -/
theorem step_of_nothing (hrst : s.nextInput.rst = false) (hclr : s.nextInput.clr = false)
    (h7 : s.state ≠ .unused7) (hvld : s.nextInput.vld = false) : t.op = 0 ∧ t.state = s.state := by
  have hexec := exec_operation_of_step h hrst
  rw [operation_eq_nop_iff.mpr ⟨hclr, hvld, rfl, rfl, h7⟩] at hexec
  cases hexec
  exact ⟨rfl, rfl⟩

/-- Neither of the two upper ranks leaves an event. -/
theorem step_evt_of_rst_or_clr (hup : s.nextInput.rst = true ∨ s.nextInput.clr = true) : t.evt = .evNone := by
  cases hrst : s.nextInput.rst with
  | true => rw [step_eq_enterInit_of_rst h hrst]; rfl
  | false =>
    have hclr : s.nextInput.clr = true := by simpa [hrst] using hup
    obtain ⟨-, -, hevt⟩ := step_of_clr h hrst hclr
    exact hevt

end

/-- Settles O25: an edge completes, and its `rst`, `clr`, `state` and `vld` fix the rank that it takes, one lemma for
each. -/
theorem simultaneousInputsTakePriority : Obligations.SimultaneousInputsTakePriority := by
  intro s hwf
  obtain ⟨t, ht⟩ := step_completes hwf
  obtain ⟨-, hinputs, -⟩ := step_rest ht
  refine ⟨t, ht, fun hrst => ?_, fun hrst hclr => ?_, step_of_unused7 ht, fun hrst hclr h7 hvld => ?_,
    step_of_nothing ht, step_evt_of_rst_or_clr ht, hinputs⟩
  · rw [step_eq_enterInit_of_rst ht hrst]
    exact atInit_enterInit _
  · obtain ⟨hop, hidle, -⟩ := step_of_clr ht hrst hclr
    exact ⟨hop, hidle⟩
  · have hop := step_op_of_byte ht hrst hclr h7 hvld
    exact ⟨hop, hop ▸ three_le_opCode_decodeByte _ _ h7, hop ▸ Nat.le_of_lt_succ (opCode_lt _)⟩

/-! ### Recovery -/

/-- The operations that end a frame or discard one (60_exceptions.md R207). -/
def Recovers (i : Instr) : Prop :=
  (∃ v st b, i = .clr v st b) ∨ (∃ v b, i = .ill v b) ∨ (∃ b, i = .hdrRej b) ∨ (∃ b, i = .dirRej b) ∨
    (∃ b, i = .lenRej b) ∨ (∃ b, i = .cksOk b) ∨ (∃ b, i = .cksBad b)

/-- Each of them goes to Idle. -/
theorem exec_state_of_recovers {i : Instr} {s t : State} (hi : Recovers i) (h : exec i s = .next t) :
    t.state = .idle := by
  rcases hi with ⟨v, st, b, rfl⟩ | ⟨v, b, rfl⟩ | ⟨b, rfl⟩ | ⟨b, rfl⟩ | ⟨b, rfl⟩ | ⟨b, rfl⟩ | ⟨b, rfl⟩ <;>
    (cases h; rfl)

/-- Settles O30: a recovering operation goes to Idle, where no parse register is live, and an edge other than CKS_OK
keeps the outputs (O29). -/
theorem recoveryReturnsToIdleAndConsumesByte : Obligations.RecoveryReturnsToIdleAndConsumesByte := by
  intro s hwf hrst hrec
  obtain ⟨t, ht⟩ := step_completes hwf
  obtain ⟨-, hinputs, -⟩ := step_rest ht
  obtain ⟨hkeeps, -, -⟩ := outputsChangeOnlyAtLatchOrReset s t ht
  have hidle : t.state = .idle := exec_state_of_recovers hrec (exec_operation_of_step ht hrst)
  exact ⟨t, ht, parse_of_idle hidle, hinputs, fun hop => (hkeeps hrst hop).out_eq⟩

end Sys2Proof.Machine
end

section
/-!
PROOFS. What a reset edge leaves (70_reset_and_hazards.md R230, R231): the abstract state and the read port that the
reset values stand for.
-/

namespace Sys2Proof.Machine

/-- The registers of INIT stand for the abstract INIT (10_state.md R30). -/
theorem abs_of_atInit {t : State} (h : AtInit t) : t.abs = some AbsState.init := by
  obtain ⟨hstate, -, -, -, -, -, -, hvld, -, -, -, -, -, hevt, hop⟩ := h
  have hout : t.out = none := by simp [State.out, hvld]
  simp [State.abs, parse_of_idle hstate, hout, hevt, hop, AbsState.init]

/-- Before the first message the read port shows 0x00 at every index (44_control.md R185). -/
theorem rdData_of_outVld_false {t : State} (hvld : t.outVld = false) (i : Byte) : t.rdData i = 0 := by
  simp [State.rdData, hvld]

/-- Settles O21: a reset edge completes in INIT (rank 1 of the priority order), whose registers give the abstract state
and, with no message latched, the read port. -/
theorem rstEdgeEntersInit : Obligations.RstEdgeEntersInit := by
  intro s hwf hrst
  obtain ⟨t, ht⟩ := step_completes hwf
  obtain ⟨hcfg, hinputs, -⟩ := step_rest ht
  have hinit : AtInit t := step_eq_enterInit_of_rst ht hrst ▸ atInit_enterInit _
  have hvld : t.outVld = false := by
    obtain ⟨-, -, -, -, -, -, -, hvld, -⟩ := hinit
    exact hvld
  exact ⟨t, ht, hinit, abs_of_atInit hinit, rdData_of_outVld_false hvld, hcfg, hinputs⟩

end Sys2Proof.Machine
end

section
/-!
PROOFS. The encoding (30_encoding.md): where the fields of a word lie, and that encode and decode are inverse to each
other on the well-formed operations and on the words.
-/

namespace Sys2Proof.Machine

/-! ### Decoding after encoding -/

/-- The word of a byte in a state decodes by the byte; state code 7 goes to ILL either way. -/
theorem decode_pack_byte (g : GuardCtx) (st : StateCode) (b : Byte) :
    decode g (OpWord.pack false true st b) = decodeByte g b st := by
  cases st <;> simp [decode, decodeByte]

/-- The word of a well-formed operation decodes to it. Only DIR_RSP leans on the direction bytes: its own guard does not
shut out the request byte, which DIR_REQ takes first. -/
theorem decode_encode {g : GuardCtx} {i : Instr} (hrsp : ∀ b, i = .dirRsp b → Config.wf g.cfg = true)
    (hi : i.wf g = true) : decode g (encode i) = i := by
  cases i with
  | clr v st b => exact decode_encode_clr g v st b
  | ill v b => exact decode_encode_ill g v b
  | nop st b => exact decode_encode_nop_iff.mpr (bne_iff_ne.mp hi)
  | idleSync0 => exact decode_pack_byte g .idle Config.sync0
  | idleSkip b => exact (decode_pack_byte g _ b).trans (decodeByte_idle_eq_idleSkip_iff.mpr (bne_iff_ne.mp hi))
  | hdrSync1 => exact decode_pack_byte g .header Config.sync1
  | hdrRej b => exact (decode_pack_byte g _ b).trans (decodeByte_header_eq_hdrRej_iff.mpr (bne_iff_ne.mp hi))
  | dirReq b => exact (decode_pack_byte g _ b).trans (decodeByte_direction_eq_dirReq_iff.mpr (beq_iff_eq.mp hi))
  | dirRsp b =>
    exact (decode_pack_byte g _ b).trans ((decodeByte_direction_eq_dirRsp_iff (hrsp b rfl)).mpr (beq_iff_eq.mp hi))
  | dirRej b =>
    obtain ⟨hreq, hrsp⟩ := Bool.and_eq_true_iff.mp hi
    exact (decode_pack_byte g _ b).trans
      (decodeByte_direction_eq_dirRej_iff.mpr ⟨bne_iff_ne.mp hreq, bne_iff_ne.mp hrsp⟩)
  | lenOk b => exact (decode_pack_byte g _ b).trans (decodeByte_length_eq_lenOk_iff.mpr (of_decide_eq_true hi))
  | lenRej b => exact (decode_pack_byte g _ b).trans (decodeByte_length_eq_lenRej_iff.mpr (of_decide_eq_true hi))
  | cmdPay b => exact (decode_pack_byte g _ b).trans (decodeByte_command_eq_cmdPay_iff.mpr (bne_iff_ne.mp hi))
  | cmdEnd b => exact (decode_pack_byte g _ b).trans (decodeByte_command_eq_cmdEnd_iff.mpr (beq_iff_eq.mp hi))
  | payMore b => exact (decode_pack_byte g _ b).trans (decodeByte_payload_eq_payMore_iff.mpr (of_decide_eq_true hi))
  | payLast b => exact (decode_pack_byte g _ b).trans (decodeByte_payload_eq_payLast_iff.mpr (of_decide_eq_true hi))
  | cksOk b => exact (decode_pack_byte g _ b).trans (decodeByte_checksum_eq_cksOk_iff.mpr (beq_iff_eq.mp hi))
  | cksBad b => exact (decode_pack_byte g _ b).trans (decodeByte_checksum_eq_cksBad_iff.mpr (bne_iff_ne.mp hi))

/-- Settles O33: the word keeps the state and the byte, and the guard that makes an operation well formed is the test by
which the decoder selects it. -/
theorem decodeOfEncodeIsIdentity : Obligations.DecodeOfEncodeIsIdentity :=
  fun _ _ hwf hi => decode_encode (fun _ _ => hwf) hi

/-- Settles O32: each of the words is the word of its operation, which is well formed where the premise holds. -/
theorem wordsOfTheTableDecode : Obligations.WordsOfTheTableDecode := by
  intro g
  have word {w : OpWord} {i : Instr} (hw : w = encode i) (hrsp : ∀ b, i ≠ .dirRsp b) (hi : i.wf g = true) :
      decode g w = i := hw ▸ decode_encode (fun b h => absurd h (hrsp b)) hi
  refine ⟨word rfl nofun rfl, word rfl nofun rfl, word rfl nofun rfl, word rfl nofun rfl, word rfl nofun rfl,
    word rfl nofun rfl, word rfl nofun rfl, fun hreq => word rfl nofun ?_,
    fun hlim => ⟨word rfl nofun ?_, word rfl nofun ?_⟩, fun hlen hidx => ⟨word rfl nofun ?_, word rfl nofun ?_⟩,
    fun hcks => ⟨word rfl nofun ?_, word rfl nofun ?_⟩⟩
  · simp [Instr.wf, hreq]
  · simp [Instr.wf, hlim]
  · simp [Instr.wf, hlim]
  · simp [Instr.wf, hlen]
  · simp [Instr.wf, hlen, hidx]
  · simp [Instr.wf, hcks]
  · simp [Instr.wf, hcks]

/-! ### Encoding after decoding -/

/-- A byte performs an operation whose guard it meets. -/
theorem wf_decodeByte (g : GuardCtx) (b : Byte) (st : StateCode) : (decodeByte g b st).wf g = true := by
  cases st with
  | idle => rw [decodeByte]; split_ifs with hb <;> simp [Instr.wf, hb]
  | header => rw [decodeByte]; split_ifs with hb <;> simp [Instr.wf, hb]
  | direction =>
    rw [decodeByte]
    split_ifs with hreq hrsp
    · simp [Instr.wf, hreq]
    · simp [Instr.wf, hrsp]
    · simp [Instr.wf, hreq, hrsp]
  | length =>
    rw [decodeByte]
    split_ifs with hfits
    · exact decide_eq_true (lenFits_iff.mp hfits)
    · exact decide_eq_true (Nat.not_le.mp (mt lenFits_iff.mpr hfits))
  | command => by_cases hlen : g.len = 0#8 <;> simp [decodeByte, Instr.wf, hlen]
  | payload =>
    rw [decodeByte]
    split_ifs with hmore
    · exact decide_eq_true (moreToCome_iff.mp hmore)
    · exact decide_eq_true (Nat.not_lt.mp (mt moreToCome_iff.mpr hmore))
  | checksum => rw [decodeByte]; split_ifs with hcks <;> simp [Instr.wf, hcks]
  | unused7 => rfl

/-- Every word decodes to a well-formed operation: NOP is left for the words that are neither CLR nor ILL. -/
theorem wf_decode (g : GuardCtx) (w : OpWord) : (decode g w).wf g = true := by
  rw [decode]
  split_ifs with hclr h7 hvld
  · rfl
  · rfl
  · exact wf_decodeByte g w.b w.st
  · simpa [Instr.wf] using h7

/-- Settles O34: every word is the word of some edge, whose operation keeps every bit of it. -/
theorem encodeOfDecodeIsIdentity : Obligations.EncodeOfDecodeIsIdentity := by
  refine fun g w => ⟨wf_decode g w, ?_⟩
  obtain ⟨s, inp, rfl, rfl⟩ := exists_guardCtx_opWord g w
  exact encode_operation s inp

/-! ### The layout of a word -/

/-- The value of two fields in a row: the first is shifted by the width of the second. -/
theorem toNat_append_eq_mul_add {v w : Nat} (x : BitVec v) (y : BitVec w) :
    (x ++ y).toNat = x.toNat * 2 ^ w + y.toNat := by
  rw [BitVec.toNat_append, ← Nat.shiftLeft_add_eq_or_of_lt y.isLt, Nat.shiftLeft_eq]

/-- Settles O31: a word is its four fields in a row, and each is shifted by the widths of those after it. -/
theorem operationWordLayout : Obligations.OperationWordLayout := by
  intro c v st b
  rw [OpWord.pack, toNat_append_eq_mul_add, toNat_append_eq_mul_add, toNat_append_eq_mul_add, BitVec.toNat_ofBool,
    BitVec.toNat_ofBool]
  omega

end Sys2Proof.Machine
end

section
/-!
PROOFS. The clock edge as a whole: it completes in every configuration that is not refused (60_exceptions.md R204), it
is the operation of its word (30_encoding.md R72), and which event that operation leaves (60_exceptions.md R200).
-/

namespace Sys2Proof.Machine

/-! ### Completion and refusal -/

/-- The configuration that is refused is the one with equal direction bytes (00_scope.md R8). -/
theorem not_wf_iff (c : Cfg) : ¬ Config.wf c = true ↔ c.dirRequest = c.dirResponse := by
  simp [Config.wf]

/-- Settles O23: an edge with `rst` enters INIT, and every operation completes. -/
theorem everyEdgeCompletes : Obligations.EveryEdgeCompletes :=
  fun _ hne => step_completes (bne_iff_ne.mpr hne)

/-- Settles O22: an edge of any other configuration completes (O23), so it is not refused. -/
theorem stepRefusesExactlyEqualDirectionBytes : Obligations.StepRefusesExactlyEqualDirectionBytes := by
  intro s
  rw [← not_wf_iff]
  constructor
  · intro hrefused hwf
    obtain ⟨t, ht⟩ := step_completes hwf
    exact nomatch hrefused.symm.trans ht
  · intro hwf
    rw [step, if_neg hwf]

/-- Settles O24: an edge keeps what is not a register but for the one input that it uses up and counts. -/
theorem everyEdgeUsesOneInputAndKeepsParameters : Obligations.EveryEdgeUsesOneInputAndKeepsParameters :=
  fun _ _ => step_rest

/-! ### The operation of an edge -/

/-- An edge without `rst` runs the operation of its word. -/
theorem step_eq_exec {s : State} (hwf : Config.wf s.cfg = true) (hrst : s.nextInput.rst = false) :
    step s = exec (s.operation s.nextInput) s.takeInput := by
  simp [step, hwf, hrst]

/-- Settles O20: an edge decodes its word, and the word of a well-formed operation decodes to it (O33). -/
theorem stepRunsDecodedOperation : Obligations.StepRunsDecodedOperation := by
  intro s i hwf hrst hi hword
  have hop : s.operation s.nextInput = i := by
    rw [State.operation, ← hword]
    exact decodeOfEncodeIsIdentity s.guardCtx i hwf hi
  rw [step_eq_exec hwf hrst, hop, State.takeInput]

/-! ### The event of an edge -/

/-- The event that an operation leaves (60_exceptions.md R200). -/
def eventOf : Instr → Event
  | .cksOk _ => .evMsg
  | .cksBad _ => .evCksumErr
  | _ => .evNone

/-- An operation leaves its event in `evt`. -/
theorem exec_evt {i : Instr} {s t : State} (h : exec i s = .next t) : t.evt = eventOf i := by
  cases i <;> (cases h; rfl)

theorem eventOf_eq_evMsg_iff (i : Instr) : eventOf i = .evMsg ↔ ∃ b, i = .cksOk b := by
  cases i <;> simp [eventOf]

theorem eventOf_eq_evCksumErr_iff (i : Instr) : eventOf i = .evCksumErr ↔ ∃ b, i = .cksBad b := by
  cases i <;> simp [eventOf]

/-- Only a byte in Checksum leaves an event. -/
theorem eventOf_operation_eq_evNone {s : State} {inp : StepInput} (h : s.state ≠ .checksum) :
    eventOf (s.operation inp) = .evNone := by
  rw [operation_eq]
  split_ifs with hclr h7 hvld
  · rfl
  · rfl
  · cases hst : s.state with
    | checksum => exact absurd hst h
    | unused7 => rfl
    | _ => rw [decodeByte]; split_ifs <;> rfl
  · rfl

/-- The event of an edge: none with `rst`, the operation's event without. -/
theorem step_evt {s t : State} (h : step s = .next t) :
    t.evt = if s.nextInput.rst then .evNone else eventOf (s.operation s.nextInput) := by
  cases hrst : s.nextInput.rst with
  | true => exact step_evt_of_rst_or_clr h (.inl hrst)
  | false => exact exec_evt (exec_operation_of_step h hrst)

/-- An edge outside Checksum leaves no event. -/
theorem step_evt_eq_evNone {s t : State} (h : step s = .next t) (hst : s.state ≠ .checksum) : t.evt = .evNone := by
  rw [step_evt h, eventOf_operation_eq_evNone hst, ite_self]

/-- An edge that leaves an event ends in Idle: it is one of the two operations of Checksum. -/
theorem step_state_of_event {s t : State} (h : step s = .next t) (hevt : t.evt ≠ .evNone) : t.state = .idle := by
  have hrst : s.nextInput.rst = false := by
    by_contra hrst
    exact hevt (step_evt_of_rst_or_clr h (.inl (by simpa using hrst)))
  have hexec := exec_operation_of_step h hrst
  rw [exec_evt hexec] at hevt
  revert hevt hexec
  cases s.operation s.nextInput with
  | cksOk b | cksBad b => intro _ hexec; cases hexec; rfl
  | _ => exact fun hevt => absurd rfl hevt

/-- Settles O27: the event of an edge is the event of its operation; an edge that leaves one ends in Idle, where no
operation leaves one. -/
theorem eventsComeFromChecksumOperationsOnly : Obligations.EventsComeFromChecksumOperationsOnly := by
  intro s t h
  have hevt := step_evt h
  refine ⟨?_, ?_, ?_, fun hne u hu => ?_⟩
  · rw [hevt, ← eventOf_eq_evMsg_iff]
    cases s.nextInput.rst <;> simp
  · rw [hevt, ← eventOf_eq_evCksumErr_iff]
    cases s.nextInput.rst <;> simp
  · obtain ⟨-, hcode, -⟩ := step_avoids_reserved h
    revert hcode
    cases t.evt <;> simp [Event.code]
  · have hidle := step_state_of_event h hne
    exact step_evt_eq_evNone hu (by simp [hidle])

/-- An edge that is neither a reset nor CKS_OK keeps the output registers: CKS_OK is told by its event. -/
theorem step_keepsOutputs {s t : State} (h : step s = .next t) (hrst : s.nextInput.rst = false)
    (hevt : t.evt ≠ .evMsg) : KeepsOutputs s t := by
  obtain ⟨hkeeps, -, -⟩ := outputsChangeOnlyAtLatchOrReset s t h
  refine hkeeps hrst fun b hop => hevt ?_
  rw [exec_evt (exec_operation_of_step h hrst), hop, eventOf]

end Sys2Proof.Machine
end

section
/-!
PROOFS. The invariant of reachable states (10_state.md R22, R23; 20_memory.md R50): it holds after reset, and every edge
keeps each of its parts.
-/

namespace Sys2Proof.Machine

/-! ### After reset -/

/-- INIT of a well-formed configuration meets the invariant: Idle reads no parse register, and no message is held. -/
theorem inv_init {cfg : Cfg} (inputs : List StepInput) (draws : Nat) (hcfg : Config.wf cfg = true) :
    (State.init cfg inputs draws).Inv where
  cfg := hcfg
  storage := ⟨rfl, rfl, rfl, rfl⟩
  parse := trivial
  out := ⟨nofun, fun _ => ⟨rfl, rfl, rfl, rfl, rfl⟩⟩
  codes := ⟨nofun, Nat.zero_lt_succ 17⟩

/-- Settles O38: the state after reset is INIT of `CFG0`, whose direction bytes differ. -/
theorem invariantHoldsAtReset : Obligations.InvariantHoldsAtReset :=
  ⟨inv_init [] 0 (by decide), fun _ inputs draws => inv_init inputs draws⟩

/-! ### The two arrays -/

/-- A store, in range or not, keeps the canonical form of `buf`. -/
theorem wf_writeBuf_buf {s : State} (h : s.buf.wf = true) (i : Nat) (b : Byte) : (s.writeBuf i b).buf.wf = true := by
  obtain hi | hi := Nat.lt_or_ge i (Config.bufDepth s.cfg)
  · rw [writeBuf_buf_in_range s i b hi]
    exact Memory.wf_write h i b
  · rwa [writeBuf_beyond s i b hi]

/-- A store, in range or not, lists nothing beyond the entries of `buf`. -/
theorem within_writeBuf_buf {s : State} (h : s.buf.within (Config.bufDepth s.cfg) = true) (i : Nat) (b : Byte) :
    (s.writeBuf i b).buf.within (Config.bufDepth s.cfg) = true := by
  obtain hi | hi := Nat.lt_or_ge i (Config.bufDepth s.cfg)
  · rw [writeBuf_buf_in_range s i b hi]
    exact Memory.within_write h hi b
  · rwa [writeBuf_beyond s i b hi]

/-- Only a payload byte writes `buf` and only CKS_OK writes `obuf`, and both keep the form of what they write. -/
theorem exec_storageOk {i : Instr} {s t : State} (hs : s.StorageOk) (h : exec i s = .next t) : t.StorageOk := by
  obtain ⟨hbuf, hobuf, hbufIn, hobufIn⟩ := hs
  cases i with
  | payMore b =>
    rw [exec_payMore] at h
    cases h
    exact ⟨wf_writeBuf_buf hbuf _ b, hobuf, within_writeBuf_buf hbufIn _ b, hobufIn⟩
  | payLast b =>
    rw [exec_payLast] at h
    cases h
    exact ⟨wf_writeBuf_buf hbuf _ b, hobuf, within_writeBuf_buf hbufIn _ b, hobufIn⟩
  | cksOk b =>
    cases h
    exact ⟨hbuf, Memory.wf_below hbuf _, hbufIn, Memory.within_below _ (min_le_right _ _)⟩
  | _ => cases h; exact ⟨hbuf, hobuf, hbufIn, hobufIn⟩

/-- Settles O40: INIT lists nothing, and every operation keeps the form of both arrays. -/
theorem storageFormKeptByEveryEdge : Obligations.StorageFormKeptByEveryEdge := by
  intro s t hs h
  obtain ⟨-, ⟨-, rfl⟩ | ⟨-, hexec⟩⟩ := step_next_iff.mp h
  · exact ⟨rfl, rfl, rfl, rfl⟩
  · exact exec_storageOk (s := s.takeInput) hs hexec

/-! ### The parse registers -/

/-- A further payload byte is accumulated last (30_encoding.md R77). -/
theorem cksum_append_singleton (n m : Byte) (p : List Byte) (b : Byte) :
    cksum n m (p ++ [b]) = xorAcc (cksum n m p) b := by
  simp [cksum]

theorem parseOk_of_command {s : State} (hst : s.state = .command) :
    s.ParseOk ↔ s.len.toNat ≤ s.cfg.lenLimit.toNat ∧ s.cks = s.len ∧ s.idx = 0 := by
  rw [State.ParseOk, hst]

theorem parseOk_of_payload {s : State} (hst : s.state = .payload) :
    s.ParseOk ↔ 1 ≤ s.len.toNat ∧ s.len.toNat ≤ s.cfg.lenLimit.toNat ∧ s.idx.toNat < s.len.toNat ∧
      s.cks = cksum s.len s.cmd (s.buf.bytes s.idx.toNat) := by
  rw [State.ParseOk, hst]

theorem parseOk_of_checksum {s : State} (hst : s.state = .checksum) :
    s.ParseOk ↔ s.len.toNat ≤ s.cfg.lenLimit.toNat ∧ s.idx = s.len ∧
      s.cks = cksum s.len s.cmd (s.buf.bytes s.len.toNat) := by
  rw [State.ParseOk, hst]

/-- In Payload the byte stored at `idx` becomes the last of the bytes that the next `idx` counts (42_body.md R142). -/
theorem bytes_writeBuf_nextIdx {s : State} (hinv : s.Inv) (hst : s.state = .payload) (b : Byte) :
    (s.writeBuf s.idx.toNat b).buf.bytes (nextIdx s.idx).toNat = s.buf.bytes s.idx.toNat ++ [b] := by
  obtain ⟨-, hlim, hidx, -⟩ := (parseOk_of_payload hst).mp hinv.parse
  obtain ⟨hwf, -⟩ := hinv.storage
  rw [writeBuf_buf_in_range s _ b (hidx.trans_le hlim), toNat_nextIdx_of_lt hidx, Memory.bytes_write_end hwf]

/-- In Payload the checksum of the bytes with one more is the running checksum with that byte accumulated. -/
theorem xorAcc_cks_of_payload {s : State} (hinv : s.Inv) (hst : s.state = .payload) (b : Byte) :
    xorAcc s.cks b = cksum s.len s.cmd ((s.writeBuf s.idx.toNat b).buf.bytes (nextIdx s.idx).toNat) := by
  obtain ⟨-, -, -, hcks⟩ := (parseOk_of_payload hst).mp hinv.parse
  rw [bytes_writeBuf_nextIdx hinv hst, cksum_append_singleton, hcks]

/-- The operation of an edge keeps the agreement of the parse registers with the parse state. -/
theorem exec_operation_parseOk {s t : State} {inp : StepInput} (hinv : s.Inv)
    (h : exec (s.operation inp) s = .next t) : t.ParseOk := by
  generalize hop : s.operation inp = i at h
  cases i with
  | nop st b => cases h; exact hinv.parse
  | lenOk b =>
    obtain ⟨hsel, -⟩ := lenOkSeedsLengthChecksumAndIndex s b
    obtain ⟨-, -, -, -, hlim⟩ := (hsel inp).mp hop
    cases h
    exact ⟨hlim, rfl, rfl⟩
  | cmdPay b =>
    obtain ⟨hsel, -⟩ := cmdPayTakesCommandToPayload s b
    obtain ⟨-, -, hst, -, hlen⟩ := (hsel inp).mp hop
    obtain ⟨hlim, hcks, hidx⟩ := (parseOk_of_command hst).mp hinv.parse
    have hpos : 0 < s.len.toNat := Nat.pos_of_ne_zero fun h0 => hlen (BitVec.eq_of_toNat_eq h0)
    cases h
    exact (parseOk_of_payload rfl).mpr ⟨hpos, hlim, by simpa [hidx] using hpos, by simp [hidx, hcks, cksum]⟩
  | cmdEnd b =>
    obtain ⟨hsel, -⟩ := cmdEndTakesCommandToChecksum s b
    obtain ⟨-, -, hst, -, hlen⟩ := (hsel inp).mp hop
    obtain ⟨hlim, hcks, hidx⟩ := (parseOk_of_command hst).mp hinv.parse
    cases h
    exact (parseOk_of_checksum rfl).mpr ⟨hlim, hidx.trans hlen.symm, by simp [hlen, hcks, cksum]⟩
  | payMore b =>
    obtain ⟨hsel, -⟩ := payMoreStoresByteAndStays s b
    obtain ⟨-, -, hst, -, hmore⟩ := (hsel inp).mp hop
    obtain ⟨hpos, hlim, hidx, -⟩ := (parseOk_of_payload hst).mp hinv.parse
    rw [exec_payMore] at h
    cases h
    exact (parseOk_of_payload rfl).mpr
      ⟨hpos, hlim, (toNat_nextIdx_of_lt hidx).trans_lt hmore, xorAcc_cks_of_payload hinv hst b⟩
  | payLast b =>
    obtain ⟨hsel, -, hexact, -⟩ := payLastStoresByteAndGoesToChecksum s b
    obtain ⟨-, -, hst, -, hlast⟩ := (hsel inp).mp hop
    obtain ⟨-, hlim, -, -⟩ := (parseOk_of_payload hst).mp hinv.parse
    have hnext : nextIdx s.idx = s.len := nextIdx_eq_of_succ_eq (hexact hinv hst hlast)
    have hcks := xorAcc_cks_of_payload hinv hst b
    rw [hnext] at hcks
    rw [exec_payLast] at h
    cases h
    exact (parseOk_of_checksum rfl).mpr ⟨hlim, hnext, hcks⟩
  | _ => cases h; trivial

/-! ### The output registers -/

/-- The operation of an edge keeps a valid message, or latches one: the byte of CKS_OK is the checksum of the bytes that
it latches (43_checksum.md R160). -/
theorem exec_operation_outOk {s t : State} {inp : StepInput} (hinv : s.Inv)
    (h : exec (s.operation inp) s = .next t) : t.OutOk := by
  have hout := hinv.out
  generalize hop : s.operation inp = i at h
  cases i with
  | cksOk b =>
    obtain ⟨hsel, -⟩ := cksOkLatchesMessage s b
    obtain ⟨-, -, hst, -, rfl⟩ := (hsel inp).mp hop
    obtain ⟨hlim, -, hcks⟩ := (parseOk_of_checksum hst).mp hinv.parse
    have hbytes := latchOut_obuf_bytes s.cks hlim
    cases h
    exact ⟨fun _ => ⟨hlim, hcks.trans (congrArg _ hbytes.symm)⟩, nofun⟩
  | payMore b => rw [exec_payMore] at h; cases h; exact hout
  | payLast b => rw [exec_payLast] at h; cases h; exact hout
  | _ => cases h; exact hout

/-! ### Every edge -/

/-- The invariant does not read what an edge uses up. -/
theorem State.Inv.takeInput {s : State} (h : s.Inv) : s.takeInput.Inv :=
  ⟨h.cfg, h.storage, h.parse, h.out, h.codes⟩

/-- The operation of an edge keeps the invariant. -/
theorem exec_operation_inv {s t : State} {inp : StepInput} (hinv : s.Inv)
    (h : exec (s.operation inp) s = .next t) : t.Inv where
  cfg := by
    obtain ⟨hcfg, -⟩ := exec_rest h
    exact hcfg ▸ hinv.cfg
  storage := exec_storageOk hinv.storage h
  parse := exec_operation_parseOk hinv h
  out := exec_operation_outOk hinv h
  codes := exec_codesOk h

/-- Settles O39: a reset edge enters INIT, and the operation of any other edge keeps each part of the invariant. -/
theorem invariantKeptByEveryEdge : Obligations.InvariantKeptByEveryEdge := by
  intro s t hinv h
  obtain ⟨hwf, ⟨-, rfl⟩ | ⟨-, hexec⟩⟩ := step_next_iff.mp h
  · exact inv_init s.takeInput.inputs s.takeInput.draws hwf
  · exact exec_operation_inv hinv.takeInput hexec

end Sys2Proof.Machine
end

section
/-!
PROOFS. The registers against the abstract step function (44_control.md R184), and what two states with one abstract
state share (10_state.md section 2).
-/

namespace Sys2Proof.Machine

/-! ### The abstract state, part by part -/

theorem abs_eq_some_iff {s : State} {a : AbsState} :
    s.abs = some a ↔ s.parse = some a.parse ∧ s.out = a.out ∧ s.evt = a.evt ∧ s.op = a.op := by
  obtain ⟨p, o, e, c⟩ := a
  simp [State.abs]

/-- The abstract state of registers that stand for a parse state. -/
theorem abs_of_parse {s : State} {p : Parse} (hp : s.parse = some p) : s.abs = some ⟨p, s.out, s.evt, s.op⟩ :=
  abs_eq_some_iff.mpr ⟨hp, rfl, rfl, rfl⟩

/-- A state whose code is not 7 stands for an abstract state (10_state.md R30). -/
theorem exists_parse_of_state_ne_unused7 {s : State} (h7 : s.state ≠ .unused7) : ∃ p, s.parse = some p := by
  rw [State.parse]
  cases hst : s.state with
  | unused7 => exact absurd hst h7
  | _ => exact ⟨_, rfl⟩

/-- A state of the invariant stands for an abstract state. -/
theorem State.Inv.exists_abs {s : State} (hinv : s.Inv) : ∃ a, s.abs = some a := by
  obtain ⟨p, hp⟩ := exists_parse_of_state_ne_unused7 hinv.state_ne_unused7
  exact ⟨_, abs_of_parse hp⟩

/-! ### A byte, state by state -/

section
variable {s t : State} {b : Byte} (h : exec (decodeByte s.guardCtx b s.state) s = .next t)
include h

theorem exec_idle_abs (hst : s.state = .idle) : t.abs = some (parseByte s.cfg .idle s.out b) := by
  rw [hst] at h
  by_cases hb : b = 0x24
  · subst hb; cases h; rfl
  · rw [decodeByte_idle_eq_idleSkip_iff.mpr hb] at h
    cases h; rw [parseByte, if_neg hb]; rfl

theorem exec_header_abs (hst : s.state = .header) : t.abs = some (parseByte s.cfg .header s.out b) := by
  rw [hst] at h
  by_cases hb : b = 0x43
  · subst hb; cases h; rfl
  · rw [decodeByte_header_eq_hdrRej_iff.mpr hb] at h
    cases h; rw [parseByte, if_neg hb]; rfl

theorem exec_direction_abs (hinv : s.Inv) (hst : s.state = .direction) :
    t.abs = some (parseByte s.cfg .direction s.out b) := by
  rw [hst] at h
  by_cases hreq : b = s.cfg.dirRequest
  · rw [decodeByte_direction_eq_dirReq_iff.mpr (by exact hreq)] at h
    cases h; rw [parseByte, if_pos hreq]; rfl
  · by_cases hrsp : b = s.cfg.dirResponse
    · rw [(decodeByte_direction_eq_dirRsp_iff hinv.cfg).mpr (by exact hrsp)] at h
      cases h; rw [parseByte, if_neg hreq, if_pos hrsp]; rfl
    · rw [decodeByte_direction_eq_dirRej_iff.mpr (by exact ⟨hreq, hrsp⟩)] at h
      cases h; rw [parseByte, if_neg hreq, if_neg hrsp]; rfl

theorem exec_length_abs (hst : s.state = .length) : t.abs = some (parseByte s.cfg (.length s.dir) s.out b) := by
  rw [hst] at h
  by_cases hfits : b ≤ s.cfg.lenLimit
  · rw [decodeByte_length_eq_lenOk_iff.mpr (by exact hfits)] at h
    cases h; rw [parseByte, if_pos hfits]; rfl
  · rw [decodeByte_length_eq_lenRej_iff.mpr (by exact Nat.not_le.mp hfits)] at h
    cases h; rw [parseByte, if_neg hfits]; rfl

theorem exec_command_abs (hinv : s.Inv) (hst : s.state = .command) :
    t.abs = some (parseByte s.cfg (.command s.dir s.len s.cks) s.out b) := by
  obtain ⟨-, -, hidx⟩ := (parseOk_of_command hst).mp hinv.parse
  rw [hst] at h
  by_cases hlen : s.len = 0
  · have hbytes : s.buf.bytes s.len.toNat = [] := by rw [hlen]; rfl
    rw [decodeByte_command_eq_cmdEnd_iff.mpr (by exact hlen)] at h
    cases h; rw [parseByte, if_pos hlen, ← hbytes]; rfl
  · have hbytes : s.buf.bytes s.idx.toNat = [] := by rw [hidx]; rfl
    rw [decodeByte_command_eq_cmdPay_iff.mpr (by exact hlen)] at h
    cases h; rw [parseByte, if_neg hlen, ← hbytes]; rfl

theorem exec_payload_abs (hinv : s.Inv) (hst : s.state = .payload) :
    t.abs = some (parseByte s.cfg (.payload s.dir s.len s.cmd s.cks (s.buf.bytes s.idx.toNat)) s.out b) := by
  obtain ⟨-, -, hidx, -⟩ := (parseOk_of_payload hst).mp hinv.parse
  have hbytes := bytes_writeBuf_nextIdx hinv hst b
  have hcount : (s.buf.bytes s.idx.toNat ++ [b]).length = s.idx.toNat + 1 := by simp
  rw [hst] at h
  rw [parseByte, hcount]
  by_cases hmore : s.idx.toNat + 1 < s.len.toNat
  · rw [decodeByte_payload_eq_payMore_iff.mpr (by exact hmore), exec_payMore] at h
    cases h; rw [if_pos hmore, ← hbytes]; rfl
  · have hnext : nextIdx s.idx = s.len := nextIdx_eq_of_succ_eq (Nat.le_antisymm hidx (Nat.not_lt.mp hmore))
    rw [decodeByte_payload_eq_payLast_iff.mpr (by exact Nat.not_lt.mp hmore), exec_payLast] at h
    cases h; rw [if_neg hmore, ← hbytes, hnext]; rfl

theorem exec_checksum_abs (hinv : s.Inv) (hst : s.state = .checksum) :
    t.abs = some (parseByte s.cfg (.checksum s.dir s.len s.cmd s.cks (s.buf.bytes s.len.toNat)) s.out b) := by
  obtain ⟨hlim, -, -⟩ := (parseOk_of_checksum hst).mp hinv.parse
  rw [hst] at h
  by_cases hcks : b = s.cks
  · rw [decodeByte_checksum_eq_cksOk_iff.mpr (by exact hcks)] at h
    have hout := exec_cksOk_out h hlim
    cases h; rw [parseByte, if_pos hcks]; exact abs_eq_some_iff.mpr ⟨rfl, hout, rfl, rfl⟩
  · rw [decodeByte_checksum_eq_cksBad_iff.mpr (by exact hcks)] at h
    cases h; rw [parseByte, if_neg hcks]; rfl

/-- A byte does in every state what the abstract parser says. -/
theorem exec_decodeByte_abs {p : Parse} (hinv : s.Inv) (hp : s.parse = some p) :
    t.abs = some (parseByte s.cfg p s.out b) := by
  rw [State.parse] at hp
  cases hst : s.state with
  | idle => rw [hst] at hp; cases hp; exact exec_idle_abs h hst
  | header => rw [hst] at hp; cases hp; exact exec_header_abs h hst
  | direction => rw [hst] at hp; cases hp; exact exec_direction_abs h hinv hst
  | length => rw [hst] at hp; cases hp; exact exec_length_abs h hst
  | command => rw [hst] at hp; cases hp; exact exec_command_abs h hinv hst
  | payload => rw [hst] at hp; cases hp; exact exec_payload_abs h hinv hst
  | checksum => rw [hst] at hp; cases hp; exact exec_checksum_abs h hinv hst
  | unused7 => exact absurd hst hinv.state_ne_unused7

end

/-! ### Every edge -/

/-! The four kinds of edge in the abstract step function (44_control.md R184). -/

theorem absStep_rst (cfg : Cfg) (a : AbsState) (clr : Bool) (byte : Option Byte) :
    absStep cfg a true clr byte = AbsState.init := rfl

theorem absStep_clr (cfg : Cfg) (a : AbsState) (byte : Option Byte) :
    absStep cfg a false true byte = { a with parse := .idle, evt := .evNone, op := 1 } := rfl

theorem absStep_none (cfg : Cfg) (a : AbsState) :
    absStep cfg a false false none = { a with evt := .evNone, op := 0 } := rfl

theorem absStep_some (cfg : Cfg) (a : AbsState) (b : Byte) :
    absStep cfg a false false (some b) = parseByte cfg a.parse a.out b := rfl

/-- The operation of an edge does what the abstract step function says of an edge without `rst`. -/
theorem exec_operation_abs {s t : State} {a : AbsState} {inp : StepInput} (hinv : s.Inv) (ha : s.abs = some a)
    (h : exec (s.operation inp) s = .next t) :
    t.abs = some (absStep s.cfg a false inp.clr (presentedByte inp)) := by
  obtain ⟨hp, hout, -, -⟩ := abs_eq_some_iff.mp ha
  rw [operation_eq, if_neg hinv.state_ne_unused7] at h
  cases hclr : inp.clr with
  | true =>
    rw [hclr] at h
    cases h
    rw [absStep_clr]
    exact abs_eq_some_iff.mpr ⟨rfl, hout, rfl, rfl⟩
  | false =>
    cases hvld : inp.vld with
    | true =>
      rw [hclr, hvld] at h
      rw [presentedByte, if_pos hvld, absStep_some, ← hout]
      exact exec_decodeByte_abs h hinv hp
    | false =>
      rw [hclr, hvld] at h
      cases h
      rw [presentedByte, hvld, if_neg Bool.false_ne_true, absStep_none]
      exact abs_eq_some_iff.mpr ⟨hp, hout, rfl, rfl⟩

/-- Settles O41: a reset edge enters the abstract INIT, and any other edge does what its operation does, state by
state. -/
theorem stepRefinesAbstractStep : Obligations.StepRefinesAbstractStep := by
  intro s a hinv ha
  obtain ⟨t, ht⟩ := step_completes hinv.cfg
  refine ⟨t, ht, ?_⟩
  obtain ⟨-, ⟨hrst, rfl⟩ | ⟨hrst, hexec⟩⟩ := step_next_iff.mp ht
  · rw [hrst, absStep_rst]
    exact abs_of_atInit (atInit_enterInit _)
  · rw [hrst]
    exact exec_operation_abs (s := s.takeInput) hinv.takeInput ha hexec

end Sys2Proof.Machine
end

section
/-!
PROOFS. The read port (44_control.md R185) as a view of the latched message, and the registers that no port shows
(10_state.md section 2, R34).
-/

namespace Sys2Proof.Machine

/-! ### The arms of the read port -/

/-- Settles O35: each arm is the branch of the port that its premises select. -/
theorem readPortArms : Obligations.ReadPortArms := by
  intro s i
  refine ⟨fun hdepth => ?_, fun hvld => rdData_of_outVld_false hvld i, fun hvld hdepth hlen => ?_,
    fun hvld hdepth hlen => ?_⟩
  · rw [State.rdData, if_pos hdepth]
  · rw [State.rdData, if_neg (Nat.not_le.mpr hdepth), if_neg (by simp [hvld]), if_pos hlen]
  · rw [State.rdData, if_neg (Nat.not_le.mpr hdepth), if_neg (by simp [hvld]), if_neg (Nat.not_lt.mpr hlen)]

/-! ### The read port shows the message -/

/-- A byte of an array below `n` is the byte at its place in the first `n` bytes. -/
theorem getElem?_bytes (m : Memory) {n i : Nat} (hi : i < n) : (m.bytes n)[i]? = some (m.read i) := by
  simp [Memory.bytes, hi]

/-- A message that is shown has been latched, with its length and its payload in the output registers. -/
theorem out_eq_some_iff {s : State} {m : Msg} :
    s.out = some m ↔ s.outVld = true ∧ s.outDir = m.dir ∧ s.outLen = m.len ∧ s.outCmd = m.cmd ∧
      s.obuf.bytes s.outLen.toNat = m.payload ∧ s.outCks = m.cks := by
  obtain ⟨d, n, c, p, k⟩ := m
  rw [State.out]
  cases s.outVld <;> simp

theorem out_eq_none_iff {s : State} : s.out = none ↔ s.outVld = false := by
  rw [State.out]
  cases s.outVld <;> simp

/-- Below its length and below `BUF_DEPTH` the message's payload is what the read port shows. -/
theorem rdData_of_out {s : State} {m : Msg} {i : Byte} (hout : s.out = some m) (hlen : i.toNat < m.len.toNat)
    (hdepth : i.toNat < Config.bufDepth s.cfg) : m.payload[i.toNat]? = some (s.rdData i) := by
  obtain ⟨hvld, -, hlen', -, hpay, -⟩ := out_eq_some_iff.mp hout
  obtain ⟨-, -, harm, -⟩ := readPortArms s i
  rw [← hlen'] at hlen
  rw [← hpay, getElem?_bytes _ hlen, harm hvld hdepth hlen]

/-- In a state of the invariant every index below the message's length is below `BUF_DEPTH`. -/
theorem State.Inv.len_le_of_out {s : State} {m : Msg} (hinv : s.Inv) (hout : s.out = some m) :
    m.len.toNat ≤ Config.bufDepth s.cfg := by
  obtain ⟨hvld, -, hlen, -⟩ := out_eq_some_iff.mp hout
  obtain ⟨hmsg, -⟩ := hinv.out
  obtain ⟨hlim, -⟩ := hmsg hvld
  exact hlen ▸ hlim

/-- Settles O36: CKS_OK latches the parse registers as the message, which the read port shows. -/
theorem readPortShowsLatchedPayload : Obligations.ReadPortShowsLatchedPayload := by
  intro s b hinv hrst hop
  obtain ⟨t, ht⟩ := step_completes hinv.cfg
  obtain ⟨hcfg, -, -⟩ := step_rest ht
  have hexec := exec_operation_of_step ht hrst
  rw [hop] at hexec
  obtain ⟨hsel, -⟩ := cksOkLatchesMessage s b
  obtain ⟨-, -, hst, -⟩ := (hsel _).mp hop
  obtain ⟨hlim, -⟩ := (parseOk_of_checksum hst).mp hinv.parse
  have hout := exec_cksOk_out hexec hlim
  refine ⟨t, ht, fun i hi => ?_, fun i hi => ?_⟩
  · have hshown := rdData_of_out hout hi (hcfg ▸ hi.trans_le hlim)
    exact (Option.some.inj ((getElem?_bytes _ hi).symm.trans hshown)).symm
  · obtain ⟨hdepth, -⟩ := readPortArms t i
    exact hdepth (hcfg ▸ hi)

/-! ### States that show the same message -/

/-- The spec says what the read port shows at every index of a message and at every index beyond the array. -/
theorem rdSpecified_iff {s : State} {i : Byte} :
    s.RdSpecified i ↔ (∀ m, s.out = some m → i.toNat < m.len.toNat) ∨ Config.bufDepth s.cfg ≤ i.toNat := by
  rw [State.RdSpecified, ← or_assoc]
  refine or_congr_left ⟨?_, fun h => ?_⟩
  · rintro (hvld | hlen) m hm
    · simp [out_eq_none_iff.mpr hvld] at hm
    · obtain ⟨-, -, hlen', -⟩ := out_eq_some_iff.mp hm
      exact hlen' ▸ hlen
  · cases hvld : s.outVld with
    | false => exact .inl rfl
    | true => exact .inr (h _ (out_eq_some_of_outVld hvld))

/-- Where the spec says what the read port shows, that is a matter of the message and `BUF_DEPTH` alone. -/
theorem rdData_congr {s t : State} (hcfg : t.cfg = s.cfg) (hout : t.out = s.out) {i : Byte} (hi : s.RdSpecified i) :
    t.rdData i = s.rdData i := by
  obtain ⟨hdepthS, hnoneS, -⟩ := readPortArms s i
  obtain ⟨hdepthT, hnoneT, -⟩ := readPortArms t i
  rw [hcfg] at hdepthT
  obtain hdepth | hdepth := Nat.lt_or_ge i.toNat (Config.bufDepth s.cfg)
  · obtain hlen | hbeyond := rdSpecified_iff.mp hi
    · cases hm : s.out with
      | none => rw [hnoneS (out_eq_none_iff.mp hm), hnoneT (out_eq_none_iff.mp (hout.trans hm))]
      | some m =>
        have hshowS := rdData_of_out hm (hlen m hm) hdepth
        have hshowT := rdData_of_out (hout.trans hm) (hlen m hm) (hcfg ▸ hdepth)
        exact Option.some.inj (hshowT.symm.trans hshowS)
    · exact absurd hbeyond (Nat.not_le.mpr hdepth)
  · rw [hdepthS hdepth, hdepthT hdepth]

/-- Settles O37: an edge that is neither a reset nor CKS_OK keeps the outputs (O29), so the message that the read port
shows. -/
theorem readPortIsStableBetweenLatches : Obligations.ReadPortIsStableBetweenLatches := by
  intro s t ht hrst hop i hi
  obtain ⟨hcfg, -, -⟩ := step_rest ht
  obtain ⟨hkeeps, -, -⟩ := outputsChangeOnlyAtLatchOrReset s t ht
  exact rdData_congr hcfg (hkeeps hrst hop).out_eq hi

/-! ### Registers that are not live -/

/-- The state code that a parse state stands for; none stands for code 7 (10_state.md R30). -/
def codeOfParse : Option Parse → StateCode
  | some .idle => .idle
  | some .header => .header
  | some .direction => .direction
  | some (.length _) => .length
  | some (.command _ _ _) => .command
  | some (.payload _ _ _ _ _) => .payload
  | some (.checksum _ _ _ _ _) => .checksum
  | none => .unused7

@[simp] theorem codeOfParse_parse (s : State) : codeOfParse s.parse = s.state := by
  rw [State.parse]
  cases s.state <;> rfl

/-- The output registers but `obuf` are read off the message, and are at their reset values without one (R24). -/
theorem outRegs_eq_of_out_eq {s t : State} (hs : s.OutOk) (ht : t.OutOk) (hout : t.out = s.out) :
    t.outVld = s.outVld ∧ t.outDir = s.outDir ∧ t.outLen = s.outLen ∧ t.outCmd = s.outCmd ∧ t.outCks = s.outCks := by
  cases hm : s.out with
  | none =>
    have hvldS := out_eq_none_iff.mp hm
    have hvldT := out_eq_none_iff.mp (hout.trans hm)
    obtain ⟨-, hresetS⟩ := hs
    obtain ⟨-, hresetT⟩ := ht
    obtain ⟨hdirS, hlenS, hcmdS, hcksS, -⟩ := hresetS hvldS
    obtain ⟨hdirT, hlenT, hcmdT, hcksT, -⟩ := hresetT hvldT
    exact ⟨hvldT.trans hvldS.symm, hdirT.trans hdirS.symm, hlenT.trans hlenS.symm, hcmdT.trans hcmdS.symm,
      hcksT.trans hcksS.symm⟩
  | some m =>
    obtain ⟨hvldS, hdirS, hlenS, hcmdS, -, hcksS⟩ := out_eq_some_iff.mp hm
    obtain ⟨hvldT, hdirT, hlenT, hcmdT, -, hcksT⟩ := out_eq_some_iff.mp (hout.trans hm)
    exact ⟨hvldT.trans hvldS.symm, hdirT.trans hdirS.symm, hlenT.trans hlenS.symm, hcmdT.trans hcmdS.symm,
      hcksT.trans hcksS.symm⟩

/-- The ports show the abstract state and nothing else. -/
theorem ports_eq_of_abs_eq {s t : State} {a : AbsState} (hs : s.Inv) (ht : t.Inv) (has : s.abs = some a)
    (hat : t.abs = some a) : t.ports = s.ports := by
  obtain ⟨hparseS, houtS, hevtS, hopS⟩ := abs_eq_some_iff.mp has
  obtain ⟨hparseT, houtT, hevtT, hopT⟩ := abs_eq_some_iff.mp hat
  obtain ⟨hvld, hdir, hlen, hcmd, hcks⟩ := outRegs_eq_of_out_eq hs.out ht.out (houtT.trans houtS.symm)
  have hstate : t.state = s.state := by
    rw [← codeOfParse_parse t, ← codeOfParse_parse s, hparseS, hparseT]
  simp only [State.ports, hvld, hdir, hlen, hcmd, hcks, hstate, hevtS, hevtT, hopS, hopT]

/-- Settles O42: both states do what the abstract step function does with the one abstract state and input (O41), and a
state of the invariant shows its abstract state only. -/
theorem registersNotLiveAreUnobservable : Obligations.RegistersNotLiveAreUnobservable := by
  intro s₁ s₂ hinv₁ hinv₂ habs hcfg hinputs hdraws
  obtain ⟨a, ha⟩ := hinv₁.exists_abs
  have hnext : s₂.nextInput = s₁.nextInput := by rw [State.nextInput, State.nextInput, hinputs, hdraws]
  obtain ⟨t₁, ht₁, hat₁⟩ := stepRefinesAbstractStep s₁ a hinv₁ ha
  obtain ⟨t₂, ht₂, hat₂⟩ := stepRefinesAbstractStep s₂ a hinv₂ (habs.symm.trans ha)
  rw [hnext, ← hcfg] at hat₂
  obtain ⟨hcfg₁, -, -⟩ := step_rest ht₁
  obtain ⟨hcfg₂, -, -⟩ := step_rest ht₂
  obtain ⟨-, hout₁, -, -⟩ := abs_eq_some_iff.mp hat₁
  obtain ⟨-, hout₂, -, -⟩ := abs_eq_some_iff.mp hat₂
  have hports := ports_eq_of_abs_eq (invariantKeptByEveryEdge _ _ hinv₂ ht₂) (invariantKeptByEveryEdge _ _ hinv₁ ht₁)
    hat₂ hat₁
  exact ⟨t₁, t₂, ht₁, ht₂, hat₁.trans hat₂.symm, hports, fun i hi =>
    (rdData_congr (hcfg₂.trans (hcfg.symm.trans hcfg₁.symm)) (hout₂.trans hout₁.symm) hi).symm⟩

end Sys2Proof.Machine
end

section
/-!
PROOFS. The payload operations in the states that no run reaches, where `idx` names no entry of `buf` (42_body.md R142;
the model's choice of logs 8 and 9).
-/

namespace Sys2Proof.Machine

/-- The count of a payload byte is an 8-bit sum. -/
theorem toNat_nextIdx (idx : Byte) : (nextIdx idx).toNat = (idx.toNat + 1) % 256 := BitVec.toNat_add idx 1

/-- Settles O14: a store beyond the array changes nothing, and the rest of both operations does not read `buf`. -/
theorem payloadByteBeyondBufferIsNotStored : Obligations.PayloadByteBeyondBufferIsNotStored := by
  intro s b i hi hbeyond
  have hbuf (j : Nat) : (s.writeBuf s.idx.toNat b).buf.read j = s.buf.read j := by
    rw [writeBuf_beyond s _ b hbeyond]
  obtain rfl | rfl := hi
  · have hexec := exec_payMore b s
    exact ⟨_, hexec, hbuf, rfl, toNat_nextIdx s.idx, rfl, rfl, rfl,
      exec_keepsOutputs (i := .payMore b) nofun hexec, exec_rest hexec⟩
  · have hexec := exec_payLast b s
    exact ⟨_, hexec, hbuf, rfl, toNat_nextIdx s.idx, rfl, rfl, rfl,
      exec_keepsOutputs (i := .payLast b) nofun hexec, exec_rest hexec⟩

end Sys2Proof.Machine
end

section
/-!
PROOFS. Runs of several edges (70_reset_and_hazards.md R241): how they compose, and what a run of pauses and a run of
few bytes from Idle do (60_exceptions.md R211, 70_reset_and_hazards.md R236).
-/

namespace Sys2Proof.Machine

/-! ### Runs, edge by edge -/

@[simp] theorem runs_zero (s : State) : runs 0 s = .next s := rfl

theorem runs_succ {s t : State} (h : step s = .next t) (k : Nat) : runs (k + 1) s = runs k t := run_succ k s h

/-- A run with at least one edge is its first edge and a run from there. -/
theorem exists_step_of_runs_succ {k : Nat} {s t : State} (h : runs (k + 1) s = .next t) :
    ∃ u, step s = .next u ∧ runs k u = .next t := by
  cases hstep : step s with
  | next u => exact ⟨u, rfl, (runs_succ hstep k).symm.trans h⟩
  | fault r => exact nomatch r
  | refused r =>
    simp only [runs, Host.Core.run, show Sys2Proof.core.step s = .refused r from hstep] at h
    exact nomatch h

/-- A run of `j + k` edges is a run of `k` edges from where `j` edges lead. -/
theorem runs_add {j : Nat} {s t : State} (h : runs j s = .next t) (k : Nat) : runs (j + k) s = runs k t := by
  induction j generalizing s with
  | zero => cases h; rw [Nat.zero_add]
  | succ j ih =>
    obtain ⟨u, hstep, hrun⟩ := exists_step_of_runs_succ h
    rw [Nat.add_right_comm, runs_succ hstep, ih hrun]

theorem KeepsOutputs.refl (s : State) : KeepsOutputs s s := ⟨rfl, rfl, rfl, rfl, rfl, fun _ => rfl⟩

theorem KeepsOutputs.trans {s t u : State} (hst : KeepsOutputs s t) (htu : KeepsOutputs t u) : KeepsOutputs s u := by
  obtain ⟨hvld, hdir, hlen, hcmd, hcks, hobuf⟩ := hst
  obtain ⟨hvld', hdir', hlen', hcmd', hcks', hobuf'⟩ := htu
  exact ⟨hvld'.trans hvld, hdir'.trans hdir, hlen'.trans hlen, hcmd'.trans hcmd, hcks'.trans hcks,
    fun i => (hobuf' i).trans (hobuf i)⟩

theorem quietFor_zero (s : State) : QuietFor 0 s := fun _ h1 h0 => absurd (h1.trans h0) (by decide)

/-- A quiet edge and then a quiet run are a quiet run. -/
theorem quietFor_succ {k : Nat} {s t : State} (hstep : step s = .next t) (hevt : t.evt = .evNone)
    (hkeeps : KeepsOutputs s t) (hquiet : QuietFor k t) : QuietFor (k + 1) s := by
  intro j h1 hj
  obtain ⟨j, rfl⟩ := Nat.exists_eq_succ_of_ne_zero (Nat.one_le_iff_ne_zero.mp h1)
  obtain rfl | hpos := Nat.eq_zero_or_pos j
  · exact ⟨t, (runs_succ hstep 0).trans rfl, hevt, hkeeps⟩
  · obtain ⟨u, hrun, hevt', hkeeps'⟩ := hquiet j hpos (Nat.le_of_succ_le_succ hj)
    exact ⟨u, (runs_succ hstep j).trans hrun, hevt', hkeeps.trans hkeeps'⟩

/-! ### Pauses -/

/-- What `n` edges without a byte leave: all as it was but the edges used up, the event and the code of NOP. -/
def State.afterPauses (s : State) (n : Nat) : State :=
  { s with inputs := s.inputs.drop n, draws := s.draws + n, evt := .evNone, op := 0 }

theorem afterPauses_afterPauses (s : State) (j k : Nat) :
    (s.afterPauses j).afterPauses k = s.afterPauses (j + k) := by
  simp [State.afterPauses, Nat.add_assoc]

/-- One listed edge without a byte, outside state code 7, is NOP (44_control.md R180). -/
theorem step_of_pause {s : State} {inp : StepInput} {rest : List StepInput} (hwf : Config.wf s.cfg = true)
    (h7 : s.state ≠ .unused7) (hinputs : s.inputs = inp :: rest)
    (hpause : inp.rst = false ∧ inp.clr = false ∧ inp.vld = false) : step s = .next (s.afterPauses 1) := by
  rw [← nextInput_cons hinputs] at hpause
  obtain ⟨hrst, hclr, hvld⟩ := hpause
  rw [step_eq_exec hwf hrst, operation_eq_nop_iff.mpr ⟨hclr, hvld, rfl, rfl, h7⟩, exec_nop]
  simp [State.afterPauses, State.takeInput]

/-- A run of listed edges without a byte, the first and any number after it. -/
theorem runs_of_pauses {n : Nat} {s : State} (hwf : Config.wf s.cfg = true) (h7 : s.state ≠ .unused7)
    (hn : n + 1 ≤ s.inputs.length)
    (hpause : ∀ inp ∈ s.inputs.take (n + 1), inp.rst = false ∧ inp.clr = false ∧ inp.vld = false) :
    runs (n + 1) s = .next (s.afterPauses (n + 1)) := by
  induction n generalizing s with
  | zero =>
    obtain ⟨inp, rest, hinputs⟩ := List.exists_cons_of_length_pos hn
    exact runs_succ (step_of_pause hwf h7 hinputs (hpause inp (by simp [hinputs]))) 0
  | succ n ih =>
    obtain ⟨inp, rest, hinputs⟩ := List.exists_cons_of_length_pos (Nat.zero_lt_of_lt hn)
    have hrest : (s.afterPauses 1).inputs = rest := by simp [State.afterPauses, hinputs]
    rw [hinputs] at hn hpause
    rw [runs_succ (step_of_pause hwf h7 hinputs (hpause inp List.mem_cons_self)),
      ih (s := s.afterPauses 1) hwf h7, afterPauses_afterPauses, Nat.add_comm 1]
    · rw [hrest]
      exact Nat.le_of_succ_le_succ hn
    · rw [hrest]
      exact fun inp' hmem => hpause inp' (List.mem_cons_of_mem inp hmem)

/-- Settles O48: every one of the edges is NOP, and so is their run. -/
theorem pausesChangeNothing : Obligations.PausesChangeNothing := by
  intro s n hwf h7 h1 hn hpause
  obtain ⟨n, rfl⟩ := Nat.exists_eq_succ_of_ne_zero (Nat.one_le_iff_ne_zero.mp h1)
  exact ⟨_, runs_of_pauses hwf h7 hn hpause, rfl, rfl, rfl, ⟨rfl, rfl, rfl, rfl, rfl, fun _ => rfl⟩,
    KeepsOutputs.refl s, rfl, rfl⟩

/-! ### The spacing of events -/

/-- How many byte steps from Idle a state is away at the least. -/
def byteDepth : StateCode → Nat
  | .idle => 0
  | .header => 1
  | .direction => 2
  | .length => 3
  | .command => 4
  | .payload => 5
  | .checksum => 5
  | .unused7 => 0

/-- A byte leads at most one step further from Idle. -/
theorem byteDepth_exec_decodeByte {g : GuardCtx} {b : Byte} {st : StateCode} {s t : State}
    (h : exec (decodeByte g b st) s = .next t) : byteDepth t.state ≤ byteDepth st + 1 := by
  cases st with
  | unused7 => cases h; exact Nat.zero_le _
  | payload =>
    rw [decodeByte] at h
    split_ifs at h
    · rw [exec_payMore] at h; cases h; exact Nat.le_succ _
    · rw [exec_payLast] at h; cases h; exact Nat.le_succ _
  | _ => rw [decodeByte] at h; split_ifs at h <;> (cases h; simp [byteDepth])

/-- Only an edge that takes a byte leads further from Idle, and by one step. -/
theorem byteDepth_step {s t : State} (h : step s = .next t) :
    byteDepth t.state ≤ byteDepth s.state + if takesByte s.nextInput then 1 else 0 := by
  obtain ⟨-, ⟨-, rfl⟩ | ⟨hrst, hexec⟩⟩ := step_next_iff.mp h
  · exact Nat.zero_le _
  · rw [operation_eq] at hexec
    split_ifs at hexec with hclr h7 hvld
    · cases hexec; exact Nat.zero_le _
    · cases hexec; exact Nat.zero_le _
    · have htakes : takesByte s.nextInput = true := by simp [takesByte, hrst, hclr, hvld]
      rw [if_pos htakes]
      exact byteDepth_exec_decodeByte hexec
    · cases hexec; exact Nat.le_add_right _ _

/-- An edge that leaves an event takes a byte in Checksum. -/
theorem checksum_and_takesByte_of_event {s t : State} (h : step s = .next t) (hevt : t.evt ≠ .evNone) :
    s.state = .checksum ∧ takesByte s.nextInput = true := by
  have hst : s.state = .checksum := by
    by_contra hst
    exact hevt (step_evt_eq_evNone h hst)
  have hup : ¬ (s.nextInput.rst = true ∨ s.nextInput.clr = true) := fun hup => hevt (step_evt_of_rst_or_clr h hup)
  obtain ⟨hrst, hclr⟩ : s.nextInput.rst = false ∧ s.nextInput.clr = false := by simpa using hup
  have hvld : s.nextInput.vld = true := by
    by_contra hvld
    have hnop := (operation_eq_nop_iff (s := s)).mpr ⟨hclr, by simpa using hvld, rfl, rfl, by simp [hst]⟩
    have hexec := exec_operation_of_step h hrst
    rw [hnop] at hexec
    exact hevt (exec_evt hexec)
  exact ⟨hst, by simp [takesByte, hrst, hclr, hvld]⟩

/-- A run of listed edges leaves no event while the depth of its first state and the bytes that it takes are below 6
together: an event needs depth 5 and one byte more. -/
theorem runs_of_few_bytes {k : Nat} {s : State} (hwf : Config.wf s.cfg = true) (hk : k ≤ s.inputs.length)
    (hcount : byteDepth s.state + (s.inputs.take k).countP takesByte < 6) :
    ∃ t, runs k s = .next t ∧ (1 ≤ k ∨ s.evt = .evNone → t.evt = .evNone) ∧
      ((∀ inp ∈ s.inputs.take k, inp.rst = false) → KeepsOutputs s t) := by
  induction k generalizing s with
  | zero => exact ⟨s, rfl, by simp, fun _ => KeepsOutputs.refl s⟩
  | succ k ih =>
    obtain ⟨inp, rest, hinputs⟩ := List.exists_cons_of_length_pos (Nat.zero_lt_of_lt hk)
    obtain ⟨u, hu⟩ := step_completes hwf
    obtain ⟨hcfg, hrest, -⟩ := step_rest hu
    have hnext := nextInput_cons hinputs
    have hdepth := byteDepth_step hu
    rw [hinputs, List.tail_cons] at hrest
    rw [hinputs, List.take_succ_cons, List.countP_cons] at hcount
    rw [hnext] at hdepth
    have hevt : u.evt = .evNone := by
      by_contra hne
      obtain ⟨hst, htakes⟩ := checksum_and_takesByte_of_event hu hne
      rw [hnext] at htakes
      simp [hst, htakes, byteDepth] at hcount
      omega
    obtain ⟨t, hrun, hevt', hkeeps⟩ := ih (s := u) (hcfg ▸ hwf)
      (by rw [hrest]; simpa [hinputs] using hk) (by rw [hrest]; omega)
    refine ⟨t, (runs_succ hu k).trans hrun, fun _ => hevt' (.inr hevt), fun hrst => ?_⟩
    rw [hinputs, List.take_succ_cons] at hrst
    have hkeeps' := step_keepsOutputs hu (hnext ▸ hrst inp List.mem_cons_self) (by simp [hevt])
    refine hkeeps'.trans (hkeeps fun inp' hmem => hrst inp' (List.mem_cons_of_mem inp ?_))
    rwa [hrest] at hmem

/-- Settles O47: an event ends in Idle, at depth 0, and the next one needs six byte steps from there. -/
theorem eventsAreSixByteStepsApart : Obligations.EventsAreSixByteStepsApart := by
  refine ⟨fun s t h hevt => ⟨step_state_of_event h ?_, ?_⟩, fun s k hwf hidle h1 hk hcount => ?_⟩
  · rcases hevt with hevt | hevt <;> simp [hevt]
  · obtain ⟨hwf, -⟩ := step_next_iff.mp h
    obtain ⟨hcfg, -⟩ := step_rest h
    exact hcfg ▸ hwf
  · obtain ⟨t, hrun, hevt, hkeeps⟩ := runs_of_few_bytes hwf hk (by simpa [hidle, byteDepth] using hcount)
    exact ⟨t, hrun, hevt (.inl h1), hkeeps⟩

end Sys2Proof.Machine
end

section
/-!
PROOFS. The run on one frame: what the abstract parser does with the bytes of a frame up to its checksum (30_encoding.md
R78), the machine's run on any stream of those bytes, and the checksum byte that ends it (43_checksum.md R160, R161).
-/

namespace Sys2Proof.Machine

/-! ### Bytes that the abstract parser takes without an event -/

/-- The bytes lead the abstract parser from the first parse state to the second, and none of them leaves an event or
touches the last message. -/
inductive QuietlyParses (cfg : Cfg) : Parse → List Byte → Parse → Prop
  | nil (p : Parse) : QuietlyParses cfg p [] p
  | cons {p p' q : Parse} {b : Byte} {bs : List Byte}
      (hbyte : ∀ o : Option Msg, ∃ code, parseByte cfg p o b = ⟨p', o, .evNone, code⟩)
      (htail : QuietlyParses cfg p' bs q) : QuietlyParses cfg p (b :: bs) q

theorem QuietlyParses.append {cfg : Cfg} {p q r : Parse} {bs cs : List Byte} (h : QuietlyParses cfg p bs q)
    (h' : QuietlyParses cfg q cs r) : QuietlyParses cfg p (bs ++ cs) r := by
  induction h with
  | nil => exact h'
  | cons hbyte _ ih => exact .cons hbyte (ih h')

/-- Bytes other than `'$'` leave the parser in Idle (40_sync.md R101). -/
theorem quietlyParses_noise (cfg : Cfg) {noise : List Byte} (h : (0x24 : Byte) ∉ noise) :
    QuietlyParses cfg .idle noise .idle := by
  induction noise with
  | nil => exact .nil _
  | cons b bs ih =>
    obtain ⟨hb, hbs⟩ := List.ne_and_not_mem_of_not_mem_cons h
    exact .cons (fun o => ⟨4, by rw [parseByte, if_neg (Ne.symm hb)]⟩) (ih hbs)

/-- The bytes of a payload from any place on: each is kept and accumulated, and the last leads to Checksum. -/
theorem quietlyParses_payload (cfg : Cfg) (d : Dir) {n : Byte} (m : Byte) {r : List Byte} (hr : r ≠ []) (c : Byte)
    (q : List Byte) (hlen : q.length + r.length = n.toNat) :
    QuietlyParses cfg (.payload d n m c q) r (.checksum d n m (r.foldl xorAcc c) (q ++ r)) := by
  induction r generalizing c q with
  | nil => exact absurd rfl hr
  | cons b r ih =>
    have hcount : (q ++ [b]).length = q.length + 1 := List.length_append
    rw [List.length_cons] at hlen
    cases r with
    | nil =>
      have hlast : ¬ (q ++ [b]).length < n.toNat := by rw [hcount, ← hlen, List.length_nil]; omega
      exact .cons (fun o => ⟨15, by rw [parseByte, if_neg hlast]; rfl⟩) (.nil _)
    | cons b' r =>
      have hmore : (q ++ [b]).length < n.toNat := by rw [hcount, ← hlen, List.length_cons]; omega
      have htail := ih (List.cons_ne_nil b' r) (c ^^^ b) (q ++ [b]) (by rw [hcount]; omega)
      rw [List.append_assoc] at htail
      exact .cons (fun o => ⟨14, by rw [parseByte, if_pos hmore]⟩) htail

/-- A frame up to its checksum byte (30_encoding.md R78). -/
def frameHead (cfg : Cfg) (d : Dir) (m : Byte) (p : List Byte) : List Byte :=
  [Config.sync0, Config.sync1, dirByte cfg d, BitVec.ofNat 8 p.length] ++ m :: p

theorem frame_eq_frameHead_append (cfg : Cfg) (d : Dir) (m : Byte) (p : List Byte) :
    frame cfg d m p = frameHead cfg d m p ++ [cksum (BitVec.ofNat 8 p.length) m p] := rfl

@[simp] theorem length_frameHead (cfg : Cfg) (d : Dir) (m : Byte) (p : List Byte) :
    (frameHead cfg d m p).length = 5 + p.length := by
  simp [frameHead]; omega

/-- The direction byte of a frame is read back as its direction, because the two direction bytes differ. -/
theorem parseByte_dirByte {cfg : Cfg} (hwf : Config.wf cfg = true) (d : Dir) (o : Option Msg) :
    ∃ code, parseByte cfg .direction o (dirByte cfg d) = ⟨.length d, o, .evNone, code⟩ := by
  have hne : cfg.dirRequest ≠ cfg.dirResponse := bne_iff_ne.mp hwf
  cases d with
  | request => exact ⟨7, by rw [parseByte, dirByte, if_pos rfl]⟩
  | response => exact ⟨8, by rw [parseByte, dirByte, if_neg hne.symm, if_pos rfl]⟩

/-- The length of a payload within `LEN_LIMIT` fits the length byte. -/
theorem toNat_ofNat_length {cfg : Cfg} {p : List Byte} (hlen : p.length ≤ cfg.lenLimit.toNat) :
    (BitVec.ofNat 8 p.length).toNat = p.length :=
  Nat.mod_eq_of_lt (hlen.trans_lt cfg.lenLimit.isLt)

/-- The command byte and the payload, after the length byte that seeds the checksum. -/
theorem quietlyParses_body (cfg : Cfg) (d : Dir) {n : Byte} (m : Byte) {p : List Byte} (hlen : n.toNat = p.length) :
    QuietlyParses cfg (.command d n n) (m :: p) (.checksum d n m (cksum n m p) p) := by
  by_cases hn : n = 0
  · have hp : p = [] := List.eq_nil_of_length_eq_zero (by rw [← hlen, hn]; rfl)
    subst hp
    exact .cons (fun o => ⟨13, by rw [parseByte, if_pos hn]; rfl⟩) (.nil _)
  · have hp : p ≠ [] := by
      rintro rfl
      exact hn (BitVec.eq_of_toNat_eq hlen)
    exact .cons (fun o => ⟨12, by rw [parseByte, if_neg hn]⟩)
      (quietlyParses_payload cfg d m hp (n ^^^ m) [] (by rw [hlen, List.length_nil, Nat.zero_add]))

/-- A frame up to its checksum byte leads from Idle to Checksum, where the parser expects the frame's checksum. -/
theorem quietlyParses_frameHead {cfg : Cfg} (hwf : Config.wf cfg = true) (d : Dir) (m : Byte) {p : List Byte}
    (hlen : p.length ≤ cfg.lenLimit.toNat) :
    QuietlyParses cfg .idle (frameHead cfg d m p)
      (.checksum d (BitVec.ofNat 8 p.length) m (cksum (BitVec.ofNat 8 p.length) m p) p) := by
  have htoNat := toNat_ofNat_length hlen
  have hfits : BitVec.ofNat 8 p.length ≤ cfg.lenLimit := BitVec.le_def.mpr (htoNat.trans_le hlen)
  exact .cons (fun o => ⟨3, rfl⟩) <| .cons (fun o => ⟨5, rfl⟩) <| .cons (parseByte_dirByte hwf d) <|
    .cons (fun o => ⟨10, by rw [parseByte, if_pos hfits]⟩) <| quietlyParses_body cfg d m htoNat

/-! ### The machine on such bytes, with pauses anywhere -/

/-- An edge without `rst` or `clr`, with a byte or without, does its part of what its stream's bytes do. -/
theorem step_of_quietlyParses {s : State} {p q : Parse} {inp : StepInput} {pre rest : List StepInput} (hinv : s.Inv)
    (hp : s.parse = some p) (hinputs : s.inputs = inp :: rest) (hrst : inp.rst = false) (hclr : inp.clr = false)
    (h : QuietlyParses s.cfg p ((inp :: pre).filterMap presentedByte) q) :
    ∃ t p', step s = .next t ∧ t.parse = some p' ∧ t.evt = .evNone ∧
      QuietlyParses s.cfg p' (pre.filterMap presentedByte) q := by
  obtain ⟨t, ht, hat⟩ := stepRefinesAbstractStep s _ hinv (abs_of_parse hp)
  rw [nextInput_cons hinputs, hrst, hclr] at hat
  cases hbyte : presentedByte inp with
  | none =>
    rw [List.filterMap_cons_none hbyte] at h
    rw [hbyte, absStep_none] at hat
    obtain ⟨hparse, -, hevt, -⟩ := abs_eq_some_iff.mp hat
    exact ⟨t, p, ht, hparse, hevt, h⟩
  | some b =>
    rw [List.filterMap_cons_some hbyte] at h
    cases h with
    | cons hquiet htail =>
      obtain ⟨code, hb⟩ := hquiet s.out
      rw [hbyte, absStep_some, hb] at hat
      obtain ⟨hparse, -, hevt, -⟩ := abs_eq_some_iff.mp hat
      exact ⟨t, _, ht, hparse, hevt, htail⟩

/-- A stream of such bytes, with any edges without a byte between them, is a quiet run. -/
theorem runs_of_quietlyParses {s : State} {p q : Parse} {pre rest : List StepInput} (hinv : s.Inv)
    (hp : s.parse = some p) (hinputs : s.inputs = pre ++ rest) (hpre : ∀ inp ∈ pre, inp.rst = false ∧ inp.clr = false)
    (h : QuietlyParses s.cfg p (pre.filterMap presentedByte) q) :
    QuietFor pre.length s ∧ ∃ t, runs pre.length s = .next t ∧ t.Inv ∧ t.cfg = s.cfg ∧ t.inputs = rest ∧
      t.parse = some q ∧ KeepsOutputs s t := by
  induction pre generalizing s p with
  | nil =>
    cases h
    exact ⟨quietFor_zero s, s, rfl, hinv, rfl, hinputs, hp, KeepsOutputs.refl s⟩
  | cons inp pre ih =>
    obtain ⟨hrst, hclr⟩ := hpre inp List.mem_cons_self
    obtain ⟨u, p', hu, hparse, hevt, htail⟩ := step_of_quietlyParses hinv hp hinputs hrst hclr h
    obtain ⟨hcfg, hrest, -⟩ := step_rest hu
    rw [hinputs, List.cons_append, List.tail_cons] at hrest
    have hkeeps := step_keepsOutputs hu (nextInput_cons hinputs ▸ hrst) (by simp [hevt])
    obtain ⟨hquiet, t, hrun, htinv, htcfg, htrest, htparse, htkeeps⟩ := ih (invariantKeptByEveryEdge s u hinv hu) hparse
      hrest (fun inp' hmem => hpre inp' (List.mem_cons_of_mem inp hmem)) (hcfg ▸ htail)
    exact ⟨quietFor_succ hu hevt hkeeps hquiet, t, (runs_succ hu _).trans hrun, htinv, htcfg.trans hcfg, htrest,
      htparse, hkeeps.trans htkeeps⟩

/-! ### The last byte of a frame -/

/-- A parse state tells the state code: Idle is the code of no other. -/
theorem state_of_parse_idle {s : State} (h : s.parse = some .idle) : s.state = .idle := by
  rw [← codeOfParse_parse s, h, codeOfParse]

/-- The byte that an edge takes in Checksum decides the event and the outputs (43_checksum.md R160, R161). -/
theorem step_of_checksum_byte {s : State} {d : Dir} {n m c b : Byte} {p : List Byte} {rest : List StepInput}
    (hinv : s.Inv) (hp : s.parse = some (.checksum d n m c p)) (hinputs : s.inputs = byteIn b :: rest) :
    ∃ t, step s = .next t ∧ t.state = .idle ∧
      (b = c → t.evt = .evMsg ∧ t.out = some ⟨d, n, m, p, b⟩) ∧ (b ≠ c → t.evt = .evCksumErr ∧ KeepsOutputs s t) := by
  obtain ⟨t, ht, hat⟩ := stepRefinesAbstractStep s _ hinv (abs_of_parse hp)
  have hnext := nextInput_cons hinputs
  rw [hnext] at hat
  change t.abs = some (parseByte s.cfg (.checksum d n m c p) s.out b) at hat
  rw [parseByte] at hat
  split_ifs at hat with hb
  · obtain ⟨hparse, hout, hevt, -⟩ := abs_eq_some_iff.mp hat
    exact ⟨t, ht, state_of_parse_idle hparse, fun _ => ⟨hevt, hout⟩, fun hne => absurd hb hne⟩
  · obtain ⟨hparse, -, hevt, -⟩ := abs_eq_some_iff.mp hat
    have hkeeps := step_keepsOutputs ht (hnext ▸ rfl) (by simp [hevt])
    exact ⟨t, ht, state_of_parse_idle hparse, fun heq => absurd heq hb, fun _ => ⟨hevt, hkeeps⟩⟩

/-- From Idle, a stream that presents noise and then a frame up to its checksum byte is quiet, and the byte after it
ends the frame: with the message if it is the frame's checksum, with the checksum error if it is not. -/
theorem runs_of_frame {s : State} {noise p : List Byte} {d : Dir} {m b : Byte} {pre rest : List StepInput}
    (hinv : s.Inv) (hidle : s.state = .idle) (hlen : p.length ≤ s.cfg.lenLimit.toNat) (hnoise : (0x24 : Byte) ∉ noise)
    (hpre : ∀ inp ∈ pre, inp.rst = false ∧ inp.clr = false)
    (hbytes : pre.filterMap presentedByte = noise ++ frameHead s.cfg d m p)
    (hinputs : s.inputs = pre ++ byteIn b :: rest) :
    QuietFor pre.length s ∧ ∃ t, runs (pre.length + 1) s = .next t ∧ t.Inv ∧ t.cfg = s.cfg ∧ t.inputs = rest ∧
      t.state = .idle ∧
      (b = cksum (BitVec.ofNat 8 p.length) m p →
        t.evt = .evMsg ∧ t.out = some ⟨d, BitVec.ofNat 8 p.length, m, p, b⟩) ∧
      (b ≠ cksum (BitVec.ofNat 8 p.length) m p → t.evt = .evCksumErr ∧ KeepsOutputs s t) := by
  have hparses := (quietlyParses_noise s.cfg hnoise).append (quietlyParses_frameHead hinv.cfg d m hlen)
  rw [← hbytes] at hparses
  obtain ⟨hquiet, u, hrun, huinv, hucfg, hurest, huparse, hukeeps⟩ :=
    runs_of_quietlyParses hinv (parse_of_idle hidle) hinputs hpre hparses
  obtain ⟨t, ht, htidle, hok, hbad⟩ := step_of_checksum_byte huinv huparse hurest
  obtain ⟨htcfg, htrest, -⟩ := step_rest ht
  rw [hurest, List.tail_cons] at htrest
  refine ⟨hquiet, t, ?_, invariantKeptByEveryEdge u t huinv ht, htcfg.trans hucfg, htrest, htidle, hok, fun hne => ?_⟩
  · rw [runs_add hrun, runs_succ ht, runs_zero]
  · obtain ⟨hevt, hkeeps⟩ := hbad hne
    exact ⟨hevt, hukeeps.trans hkeeps⟩

end Sys2Proof.Machine
end

section
/-!
PROOFS. The statements on streams of frames: noise before a frame (40_sync.md R105), frames back to back and with pauses
(43_checksum.md R165), and a frame with one wrong byte (43_checksum.md R164).
-/

namespace Sys2Proof.Machine

/-! ### Bytes with nothing between them -/

theorem byteStream_append (bs cs : List Byte) : byteStream (bs ++ cs) = byteStream bs ++ byteStream cs :=
  List.map_append

@[simp] theorem length_byteStream (bs : List Byte) : (byteStream bs).length = bs.length := List.length_map byteIn

@[simp] theorem filterMap_presentedByte_byteStream (bs : List Byte) : (byteStream bs).filterMap presentedByte = bs := by
  rw [byteStream, List.filterMap_map, show presentedByte ∘ byteIn = some from rfl, List.filterMap_some]

theorem not_rst_not_clr_of_mem_byteStream {bs : List Byte} :
    ∀ inp ∈ byteStream bs, inp.rst = false ∧ inp.clr = false := by
  intro inp hmem
  obtain ⟨b, -, rfl⟩ := List.mem_map.mp hmem
  exact ⟨rfl, rfl⟩

/-- The run of a frame, or of a frame with another last byte, whose bytes come one by one after noise. -/
theorem runs_of_frame_bytes {s : State} {noise p : List Byte} {d : Dir} {m b : Byte} {rest : List StepInput}
    (hinv : s.Inv) (hidle : s.state = .idle) (hlen : p.length ≤ s.cfg.lenLimit.toNat) (hnoise : (0x24 : Byte) ∉ noise)
    (hinputs : s.inputs = byteStream (noise ++ (frameHead s.cfg d m p ++ [b])) ++ rest) :
    QuietFor (noise.length + 5 + p.length) s ∧ ∃ t, runs (noise.length + 6 + p.length) s = .next t ∧ t.Inv ∧
      t.cfg = s.cfg ∧ t.inputs = rest ∧ t.state = .idle ∧
      (b = cksum (BitVec.ofNat 8 p.length) m p →
        t.evt = .evMsg ∧ t.out = some ⟨d, BitVec.ofNat 8 p.length, m, p, b⟩) ∧
      (b ≠ cksum (BitVec.ofNat 8 p.length) m p → t.evt = .evCksumErr ∧ KeepsOutputs s t) := by
  rw [← List.append_assoc, byteStream_append, List.append_assoc] at hinputs
  have hrun := runs_of_frame hinv hidle hlen hnoise not_rst_not_clr_of_mem_byteStream
    (filterMap_presentedByte_byteStream _) hinputs
  have hcount : noise.length + (5 + p.length) + 1 = noise.length + 6 + p.length := by omega
  rwa [length_byteStream, List.length_append, length_frameHead, hcount, ← Nat.add_assoc] at hrun

/-- Settles O46: noise without `'$'` leaves the parser in Idle, where the frame finds it. -/
theorem noiseWithoutDollarKeepsNextFrame : Obligations.NoiseWithoutDollarKeepsNextFrame := by
  intro s noise d m p rest hinv hidle hnoise hlen hinputs
  obtain ⟨hquiet, t, hrun, -, -, -, htidle, hok, -⟩ := runs_of_frame_bytes hinv hidle hlen hnoise hinputs
  obtain ⟨hevt, hout⟩ := hok rfl
  exact ⟨hquiet, t, hrun, htidle, hevt, hout⟩

/-- Settles O44: the first frame ends in Idle, where the second finds the block as the first did. -/
theorem backToBackFramesGiveTwoMessagesInOrder : Obligations.BackToBackFramesGiveTwoMessagesInOrder := by
  intro s d₁ d₂ m₁ m₂ p₁ p₂ rest hinv hidle hlen₁ hlen₂ hinputs
  rw [byteStream_append, List.append_assoc] at hinputs
  obtain ⟨hquiet₁, t, hrun₁, htinv, htcfg, htrest, htidle, hok₁, -⟩ :=
    runs_of_frame_bytes (noise := []) hinv hidle hlen₁ List.not_mem_nil hinputs
  rw [← htcfg] at htrest hlen₂
  obtain ⟨hquiet₂, u, hrun₂, -, -, hurest, huidle, hok₂, -⟩ :=
    runs_of_frame_bytes (noise := []) htinv htidle hlen₂ List.not_mem_nil htrest
  obtain ⟨hevt₁, hout₁⟩ := hok₁ rfl
  obtain ⟨hevt₂, hout₂⟩ := hok₂ rfl
  rw [List.length_nil, Nat.zero_add] at hquiet₁ hrun₁ hquiet₂ hrun₂
  exact ⟨t, u, hquiet₁, hrun₁, hevt₁, hout₁, hquiet₂, hrun₂, hevt₂, hout₂, huidle, hurest⟩

/-! ### Pauses inside a frame, and the read port after it -/

/-- In a state of the invariant the read port shows the payload of the message. -/
theorem State.Inv.rdData_eq_payload {s : State} {m : Msg} (hinv : s.Inv) (hout : s.out = some m) {i : Nat}
    (hi : i < m.payload.length) (hlen : m.payload.length = m.len.toNat) :
    s.rdData (BitVec.ofNat 8 i) = m.payload[i] := by
  have htoNat : (BitVec.ofNat 8 i).toNat = i := Nat.mod_eq_of_lt ((hi.trans_eq hlen).trans m.len.isLt)
  have hbelow : (BitVec.ofNat 8 i).toNat < m.len.toNat := by rw [htoNat, ← hlen]; exact hi
  have hshown := rdData_of_out hout hbelow (hbelow.trans_le (hinv.len_le_of_out hout))
  rw [htoNat, List.getElem?_eq_getElem hi] at hshown
  exact (Option.some.inj hshown).symm

/-- Settles O43: with pauses anywhere the bytes before the last are those of the frame up to its checksum, and the last
is the checksum that the parser expects. -/
theorem frameRoundTripWithPauses : Obligations.FrameRoundTripWithPauses := by
  intro s d m p pre rest hinv hidle hlen hpre hbytes hinputs
  rw [frame_eq_frameHead_append, List.dropLast_concat] at hbytes
  obtain ⟨hquiet, t, hrun, htinv, -, htrest, htidle, hok, -⟩ :=
    runs_of_frame (noise := []) hinv hidle hlen List.not_mem_nil hpre hbytes hinputs
  obtain ⟨hevt, hout⟩ := hok rfl
  exact ⟨hquiet, t, hrun, htidle, hevt, htrest, hout, fun i hi =>
    htinv.rdData_eq_payload hout hi (toNat_ofNat_length hlen).symm⟩

/-! ### One wrong byte -/

/-- Accumulating the same bytes keeps two different accumulators different. -/
theorem foldl_xorAcc_inj {l : List Byte} {c c' : Byte} (h : l.foldl xorAcc c = l.foldl xorAcc c') : c = c' := by
  induction l generalizing c c' with
  | nil => exact h
  | cons b l ih => exact (BitVec.xor_left_inj b).mp (ih h)

/-- One byte replaced by a different one changes the accumulated checksum (43_checksum.md R164). -/
theorem foldl_xorAcc_set_ne {l : List Byte} {i : Nat} {x y : Byte} (hy : l[i]? = some y) (hne : x ≠ y) (c : Byte) :
    (l.set i x).foldl xorAcc c ≠ l.foldl xorAcc c := by
  induction l generalizing i c with
  | nil => exact nomatch hy
  | cons b l ih =>
    cases i with
    | zero =>
      obtain rfl := Option.some.inj hy
      exact fun h => hne ((BitVec.xor_right_inj c).mp (foldl_xorAcc_inj h))
    | succ i => exact ih hy (xorAcc c b)

/-- The checksum accumulates the length byte, the command byte and the payload alike (30_encoding.md R77). -/
theorem cksum_eq_foldl (n m : Byte) (p : List Byte) : cksum n m p = (m :: p).foldl xorAcc n := rfl

/-- A frame with a different byte from offset 4 on is a frame of the same length whose last byte is not its checksum. -/
theorem frame_set_eq {cfg : Cfg} {d : Dir} {m : Byte} {p : List Byte} {j : Nat} {x y : Byte} (hj : 4 ≤ j)
    (hy : (frame cfg d m p)[j]? = some y) (hne : x ≠ y) :
    ∃ m' p' b, (frame cfg d m p).set j x = frameHead cfg d m' p' ++ [b] ∧ p'.length = p.length ∧
      b ≠ cksum (BitVec.ofNat 8 p'.length) m' p' := by
  obtain ⟨i, rfl⟩ := Nat.exists_eq_add_of_le' hj
  have hset : (frame cfg d m p).set (i + 4) x =
      [Config.sync0, Config.sync1, dirByte cfg d, BitVec.ofNat 8 p.length] ++
        (m :: p ++ [cksum (BitVec.ofNat 8 p.length) m p]).set i x := rfl
  replace hy : (m :: p ++ [cksum (BitVec.ofNat 8 p.length) m p])[i]? = some y := hy
  rw [hset]
  obtain hi | hi := Nat.lt_or_ge i (m :: p).length
  · rw [List.getElem?_append_left hi] at hy
    have hdiff := foldl_xorAcc_set_ne hy hne (BitVec.ofNat 8 p.length)
    obtain ⟨m', p', hbody⟩ := List.exists_cons_of_length_pos (l := (m :: p).set i x) (by simp)
    have hlen : p'.length = p.length := by simpa using (congrArg List.length hbody).symm
    rw [hbody] at hdiff
    refine ⟨m', p', cksum (BitVec.ofNat 8 p.length) m p, ?_, hlen, ?_⟩
    · rw [List.set_append_left _ _ hi, hbody, frameHead, hlen, List.append_assoc]
    · rw [cksum_eq_foldl, cksum_eq_foldl, hlen]
      exact hdiff.symm
  · rw [List.getElem?_append_right hi] at hy
    obtain ⟨hlast, hcks⟩ := List.getElem?_eq_some_iff.mp hy
    rw [List.length_singleton, Nat.lt_one_iff] at hlast
    simp only [hlast, List.getElem_cons_zero] at hcks
    refine ⟨m, p, x, ?_, rfl, hcks ▸ hne⟩
    rw [List.set_append_right _ _ hi, hlast, List.set_cons_zero, frameHead, List.append_assoc]

/-- Settles O45: the damaged frame parses as a frame up to its last byte, and one different byte among those that the
checksum covers or the checksum itself makes the two differ. -/
theorem oneWrongCoveredByteGivesChecksumError : Obligations.OneWrongCoveredByteGivesChecksumError := by
  intro s d m p j x y rest hinv hidle hlen hj hy hne hinputs
  obtain ⟨m', p', b, hset, hlen', hb⟩ := frame_set_eq hj hy hne
  rw [hset] at hinputs
  rw [← hlen'] at hlen ⊢
  obtain ⟨hquiet, t, hrun, -, -, htrest, htidle, -, hbad⟩ :=
    runs_of_frame_bytes (noise := []) hinv hidle hlen List.not_mem_nil hinputs
  obtain ⟨hevt, hkeeps⟩ := hbad hb
  rw [List.length_nil, Nat.zero_add] at hquiet hrun
  exact ⟨hquiet, t, hrun, htidle, hevt, hkeeps, htrest⟩

end Sys2Proof.Machine
end
